-- ==== Sys2Proof/Word.lean ====
section
/-! DEFINITION. The widths of the machine: bytes, 16-bit words and register numbers (10_state.md R20, R23, R24). -/

namespace Sys2Proof

/-- An 8-bit value: a general register, a timer, a byte of memory. -/
abbrev Byte := BitVec 8

/-- A 16-bit value: I, PC, SP, a stack entry, an opcode. -/
abbrev Word := BitVec 16

/-- The number of a general register, V0 to VF (R20, R22). -/
abbrev RegIdx := Fin 16

/-- VF, the flag register, is V[15] (R21). -/
abbrev vf : RegIdx := 15

end Sys2Proof
end

