-- ==== Sys2Proof/Syntax.lean ====
section
/-! DEFINITION. The instruction set: one constructor for each of the 34 rows of opcode_table.json (30_encoding.md R85,
R86). An unassigned word is no instruction: see `Decoded` in Decode.lean. -/

namespace Sys2Proof

/-- The 34 instruction forms, named as 30_encoding.md R85 names them. `x` and `y` are register numbers, `kk` an 8-bit
immediate, `nnn` an address used as `zext_16(nnn)`, `n` a row count (R76, R77). The bounds on `nnn` and `n` that their
12 and 4 bits of encoding give are checked by `Instr.wellFormed`. -/
inductive Instr where
  /-- 00E0 CLS (43_display.md R170) -/
  | cls
  /-- 00EE RET (40_control_flow.md R100) -/
  | ret
  /-- 1nnn JP nnn (R101) -/
  | jp (nnn : Word)
  /-- 2nnn CALL nnn (R102) -/
  | call (nnn : Word)
  /-- 3xkk SE Vx, kk (R103) -/
  | seImm (x : RegIdx) (kk : Byte)
  /-- 4xkk SNE Vx, kk (R104) -/
  | sneImm (x : RegIdx) (kk : Byte)
  /-- 5xy0 SE Vx, Vy (R105) -/
  | seReg (x y : RegIdx)
  /-- 6xkk LD Vx, kk (41_load_alu.md R122) -/
  | ldImm (x : RegIdx) (kk : Byte)
  /-- 7xkk ADD Vx, kk (R123) -/
  | addImm (x : RegIdx) (kk : Byte)
  /-- 8xy0 LD Vx, Vy (R124) -/
  | ldReg (x y : RegIdx)
  /-- 8xy1 OR Vx, Vy (R125) -/
  | or (x y : RegIdx)
  /-- 8xy2 AND Vx, Vy (R126) -/
  | and (x y : RegIdx)
  /-- 8xy3 XOR Vx, Vy (R127) -/
  | xor (x y : RegIdx)
  /-- 8xy4 ADD Vx, Vy (R128) -/
  | addReg (x y : RegIdx)
  /-- 8xy5 SUB Vx, Vy (R129) -/
  | sub (x y : RegIdx)
  /-- 8xy6 SHR Vx, Vy (R130) -/
  | shr (x y : RegIdx)
  /-- 8xy7 SUBN Vx, Vy (R131) -/
  | subn (x y : RegIdx)
  /-- 8xyE SHL Vx, Vy (R132) -/
  | shl (x y : RegIdx)
  /-- 9xy0 SNE Vx, Vy (40_control_flow.md R106) -/
  | sneReg (x y : RegIdx)
  /-- Annn LD I, nnn (42_index_memory.md R150) -/
  | ldIdx (nnn : Word)
  /-- Bnnn JP V0, nnn (40_control_flow.md R107) -/
  | jpV0 (nnn : Word)
  /-- Cxkk RND Vx, kk (41_load_alu.md R133) -/
  | rnd (x : RegIdx) (kk : Byte)
  /-- Dxyn DRW Vx, Vy, n (43_display.md R171) -/
  | drw (x y : RegIdx) (n : Nat)
  /-- Ex9E SKP Vx (44_timers_keys.md R197) -/
  | skp (x : RegIdx)
  /-- ExA1 SKNP Vx (R198) -/
  | sknp (x : RegIdx)
  /-- Fx07 LD Vx, DT (R194) -/
  | ldVDt (x : RegIdx)
  /-- Fx0A LD Vx, K (R199) -/
  | ldK (x : RegIdx)
  /-- Fx15 LD DT, Vx (R195) -/
  | ldDtV (x : RegIdx)
  /-- Fx18 LD ST, Vx (R196) -/
  | ldStV (x : RegIdx)
  /-- Fx1E ADD I, Vx (42_index_memory.md R151) -/
  | addIdx (x : RegIdx)
  /-- Fx29 LD F, Vx (R152) -/
  | ldF (x : RegIdx)
  /-- Fx33 LD B, Vx (R153) -/
  | ldB (x : RegIdx)
  /-- Fx55 LD [I], Vx (R154) -/
  | stRegs (x : RegIdx)
  /-- Fx65 LD Vx, [I] (R155) -/
  | ldRegs (x : RegIdx)
deriving DecidableEq, Repr

end Sys2Proof
end

