-- ==== Sys2Proof/WellFormed.lean ====
section
/-! DEFINITION. Which terms of `Instr` some word encodes (30_encoding.md R74, R76): register numbers and `kk` fit by
their types; `nnn` must fit 12 bits and `n` must fit 4. -/

namespace Sys2Proof

/-- `nnn` is a 12-bit address (R76, R77). -/
def nnnFits (nnn : Word) : Bool := decide (nnn.toNat ≤ 0xFFF)

/-- `n` is a row count from 0 to 15 (R76, R77). -/
def nFits (n : Nat) : Bool := decide (n ≤ 15)

/-- An instruction that some 16-bit word encodes. -/
def Instr.wellFormed : Instr → Bool
  | .cls | .ret => true
  | .jp nnn | .call nnn | .ldIdx nnn | .jpV0 nnn => nnnFits nnn
  | .seImm _ _ | .sneImm _ _ | .ldImm _ _ | .addImm _ _ | .rnd _ _ => true
  | .seReg _ _ | .sneReg _ _ => true
  | .ldReg _ _ | .or _ _ | .and _ _ | .xor _ _ | .addReg _ _ => true
  | .sub _ _ | .shr _ _ | .subn _ _ | .shl _ _ => true
  | .drw _ _ n => nFits n
  | .skp _ | .sknp _ | .ldVDt _ | .ldK _ | .ldDtV _ | .ldStV _ => true
  | .addIdx _ | .ldF _ | .ldB _ | .stRegs _ | .ldRegs _ => true

end Sys2Proof
end

