-- ==== Sys2Proof/Decode.lean ====
section
/-! DEFINITION. The decoder, total on every 16-bit word (30_encoding.md R78 to R84), the encoder, and the rows of the
opcode table. -/

namespace Sys2Proof

/-- The bit slice `op[hi:lo]` of width `w` (00_scope.md R9). -/
def slice (op : Word) (lo w : Nat) : BitVec w := op.extractLsb' lo w

/-- `x = op[11:8]` (R76). -/
def opX (op : Word) : RegIdx := ⟨(slice op 8 4).toNat, (slice op 8 4).isLt⟩

/-- `y = op[7:4]` (R76). -/
def opY (op : Word) : RegIdx := ⟨(slice op 4 4).toNat, (slice op 4 4).isLt⟩

/-- `n = op[3:0]` (R76). -/
def opN (op : Word) : Nat := (slice op 0 4).toNat

/-- `kk = op[7:0]` (R76). -/
def opKK (op : Word) : Byte := slice op 0 8

/-- `nnn = op[11:0]`, used as `zext_16(nnn)` (R76, R77). -/
def opNNN (op : Word) : Word := (slice op 0 12).setWidth 16

/-- What a word decodes to: an instruction, or no instruction at all (R80, R84, R85). -/
inductive Decoded where
  | instr (i : Instr)
  | unassigned (op : Word)
deriving DecidableEq, Repr

/-- The 0nnn words: only 00E0 and 00EE are assigned (R79, R81). -/
def decode0 (op : Word) : Decoded :=
  if op = 0x00E0#16 then .instr .cls
  else if op = 0x00EE#16 then .instr .ret
  else .unassigned op

/-- The 8xy family, by its function nibble (R79; 41_load_alu.md R120). -/
def decode8 (op : Word) : Decoded :=
  match slice op 0 4 with
  | 0x0#4 => .instr (.ldReg (opX op) (opY op))
  | 0x1#4 => .instr (.or (opX op) (opY op))
  | 0x2#4 => .instr (.and (opX op) (opY op))
  | 0x3#4 => .instr (.xor (opX op) (opY op))
  | 0x4#4 => .instr (.addReg (opX op) (opY op))
  | 0x5#4 => .instr (.sub (opX op) (opY op))
  | 0x6#4 => .instr (.shr (opX op) (opY op))
  | 0x7#4 => .instr (.subn (opX op) (opY op))
  | 0xE#4 => .instr (.shl (opX op) (opY op))
  | _ => .unassigned op

/-- The Ex words, by their function byte (R79). -/
def decodeE (op : Word) : Decoded :=
  match slice op 0 8 with
  | 0x9E#8 => .instr (.skp (opX op))
  | 0xA1#8 => .instr (.sknp (opX op))
  | _ => .unassigned op

/-- The Fx words, by their function byte (R79). -/
def decodeF (op : Word) : Decoded :=
  match slice op 0 8 with
  | 0x07#8 => .instr (.ldVDt (opX op))
  | 0x0A#8 => .instr (.ldK (opX op))
  | 0x15#8 => .instr (.ldDtV (opX op))
  | 0x18#8 => .instr (.ldStV (opX op))
  | 0x1E#8 => .instr (.addIdx (opX op))
  | 0x29#8 => .instr (.ldF (opX op))
  | 0x33#8 => .instr (.ldB (opX op))
  | 0x55#8 => .instr (.stRegs (opX op))
  | 0x65#8 => .instr (.ldRegs (opX op))
  | _ => .unassigned op

/-- The decode map of R79: first on the high nibble, then as each family says (R78); strict on every fixed bit (R81). -/
def decode (op : Word) : Decoded :=
  match slice op 12 4 with
  | 0x0#4 => decode0 op
  | 0x1#4 => .instr (.jp (opNNN op))
  | 0x2#4 => .instr (.call (opNNN op))
  | 0x3#4 => .instr (.seImm (opX op) (opKK op))
  | 0x4#4 => .instr (.sneImm (opX op) (opKK op))
  | 0x5#4 => if slice op 0 4 = 0#4 then .instr (.seReg (opX op) (opY op)) else .unassigned op
  | 0x6#4 => .instr (.ldImm (opX op) (opKK op))
  | 0x7#4 => .instr (.addImm (opX op) (opKK op))
  | 0x8#4 => decode8 op
  | 0x9#4 => if slice op 0 4 = 0#4 then .instr (.sneReg (opX op) (opY op)) else .unassigned op
  | 0xA#4 => .instr (.ldIdx (opNNN op))
  | 0xB#4 => .instr (.jpV0 (opNNN op))
  | 0xC#4 => .instr (.rnd (opX op) (opKK op))
  | 0xD#4 => .instr (.drw (opX op) (opY op) (opN op))
  | 0xE#4 => decodeE op
  | 0xF#4 => decodeF op
  | _ => .unassigned op

/-- The big-endian word of two bytes, the first fetched being the high one (R72; 20_memory.md R56). -/
def wordOfBytes (hi lo : Byte) : Word := hi ++ lo

/-- The first byte of a word in memory order (R72). -/
def highByte (op : Word) : Byte := slice op 8 8

/-- The second byte of a word in memory order (R72). -/
def lowByte (op : Word) : Byte := slice op 0 8

/-- The word that `nbits` bits `w` of the opcode table stand for: bit 0 of the table is bit 0 of the word, and the bits
above `nbits` are 0. -/
def tableWord (nbits w : Nat) : Word := BitVec.ofNat 16 (w % 2 ^ nbits)

/-- The instruction the decoder reads from a word given as the opcode table numbers its bits: the word is laid out as
the hardware stores it, high byte first, and decoded. -/
def decodeTableWord (nbits w : Nat) : Option Instr :=
  match decode (wordOfBytes (highByte (tableWord nbits w)) (lowByte (tableWord nbits w))) with
  | .instr i => some i
  | .unassigned _ => none

/-- Format NNN (R74): the high nibble, then the low 12 bits of `nnn`. -/
def formNNN (op : Nat) (nnn : Word) : Word := BitVec.ofNat 16 (op * 0x1000 + nnn.toNat % 0x1000)

/-- Format XKK, and format XFF with its function byte as `kk` (R74). -/
def formXKK (op : Nat) (x : RegIdx) (kk : Byte) : Word := BitVec.ofNat 16 (op * 0x1000 + x.val * 0x100 + kk.toNat)

/-- Format XYN, and format XYF with its function nibble as `n` (R74): the low 4 bits of `n`. -/
def formXYN (op : Nat) (x y : RegIdx) (n : Nat) : Word :=
  BitVec.ofNat 16 (op * 0x1000 + x.val * 0x100 + y.val * 0x10 + n % 0x10)

/-- The word of a well-formed instruction, from the formats of R74 and the patterns of R79. -/
def encode : Instr → Word
  | .cls => 0x00E0
  | .ret => 0x00EE
  | .jp nnn => formNNN 0x1 nnn
  | .call nnn => formNNN 0x2 nnn
  | .seImm x kk => formXKK 0x3 x kk
  | .sneImm x kk => formXKK 0x4 x kk
  | .seReg x y => formXYN 0x5 x y 0x0
  | .ldImm x kk => formXKK 0x6 x kk
  | .addImm x kk => formXKK 0x7 x kk
  | .ldReg x y => formXYN 0x8 x y 0x0
  | .or x y => formXYN 0x8 x y 0x1
  | .and x y => formXYN 0x8 x y 0x2
  | .xor x y => formXYN 0x8 x y 0x3
  | .addReg x y => formXYN 0x8 x y 0x4
  | .sub x y => formXYN 0x8 x y 0x5
  | .shr x y => formXYN 0x8 x y 0x6
  | .subn x y => formXYN 0x8 x y 0x7
  | .shl x y => formXYN 0x8 x y 0xE
  | .sneReg x y => formXYN 0x9 x y 0x0
  | .ldIdx nnn => formNNN 0xA nnn
  | .jpV0 nnn => formNNN 0xB nnn
  | .rnd x kk => formXKK 0xC x kk
  | .drw x y n => formXYN 0xD x y n
  | .skp x => formXKK 0xE x 0x9E
  | .sknp x => formXKK 0xE x 0xA1
  | .ldVDt x => formXKK 0xF x 0x07
  | .ldK x => formXKK 0xF x 0x0A
  | .ldDtV x => formXKK 0xF x 0x15
  | .ldStV x => formXKK 0xF x 0x18
  | .addIdx x => formXKK 0xF x 0x1E
  | .ldF x => formXKK 0xF x 0x29
  | .ldB x => formXKK 0xF x 0x33
  | .stRegs x => formXKK 0xF x 0x55
  | .ldRegs x => formXKK 0xF x 0x65

/-- One row of opcode_table.json: a word is the row's instruction when its masked bits are the row's match. -/
structure OpcodeRow where
  mask : Word
  pattern : Word
deriving DecidableEq, Repr

/-- A word fits a row. -/
def OpcodeRow.fits (r : OpcodeRow) (op : Word) : Bool := op &&& r.mask == r.pattern

/-- The row of opcode_table.json that an instruction belongs to. -/
def Instr.row : Instr → OpcodeRow
  | .cls => ⟨0xFFFF, 0x00E0⟩
  | .ret => ⟨0xFFFF, 0x00EE⟩
  | .jp _ => ⟨0xF000, 0x1000⟩
  | .call _ => ⟨0xF000, 0x2000⟩
  | .seImm _ _ => ⟨0xF000, 0x3000⟩
  | .sneImm _ _ => ⟨0xF000, 0x4000⟩
  | .seReg _ _ => ⟨0xF00F, 0x5000⟩
  | .ldImm _ _ => ⟨0xF000, 0x6000⟩
  | .addImm _ _ => ⟨0xF000, 0x7000⟩
  | .ldReg _ _ => ⟨0xF00F, 0x8000⟩
  | .or _ _ => ⟨0xF00F, 0x8001⟩
  | .and _ _ => ⟨0xF00F, 0x8002⟩
  | .xor _ _ => ⟨0xF00F, 0x8003⟩
  | .addReg _ _ => ⟨0xF00F, 0x8004⟩
  | .sub _ _ => ⟨0xF00F, 0x8005⟩
  | .shr _ _ => ⟨0xF00F, 0x8006⟩
  | .subn _ _ => ⟨0xF00F, 0x8007⟩
  | .shl _ _ => ⟨0xF00F, 0x800E⟩
  | .sneReg _ _ => ⟨0xF00F, 0x9000⟩
  | .ldIdx _ => ⟨0xF000, 0xA000⟩
  | .jpV0 _ => ⟨0xF000, 0xB000⟩
  | .rnd _ _ => ⟨0xF000, 0xC000⟩
  | .drw _ _ _ => ⟨0xF000, 0xD000⟩
  | .skp _ => ⟨0xF0FF, 0xE09E⟩
  | .sknp _ => ⟨0xF0FF, 0xE0A1⟩
  | .ldVDt _ => ⟨0xF0FF, 0xF007⟩
  | .ldK _ => ⟨0xF0FF, 0xF00A⟩
  | .ldDtV _ => ⟨0xF0FF, 0xF015⟩
  | .ldStV _ => ⟨0xF0FF, 0xF018⟩
  | .addIdx _ => ⟨0xF0FF, 0xF01E⟩
  | .ldF _ => ⟨0xF0FF, 0xF029⟩
  | .ldB _ => ⟨0xF0FF, 0xF033⟩
  | .stRegs _ => ⟨0xF0FF, 0xF055⟩
  | .ldRegs _ => ⟨0xF0FF, 0xF065⟩

/-- One instruction of each form, so that `opcodeTable` lists each row once. -/
def sampleInstrs : List Instr :=
  [.cls, .ret, .jp 0, .call 0, .seImm 0 0, .sneImm 0 0, .seReg 0 0, .ldImm 0 0, .addImm 0 0] ++
  [.ldReg 0 0, .or 0 0, .and 0 0, .xor 0 0, .addReg 0 0, .sub 0 0, .shr 0 0, .subn 0 0, .shl 0 0] ++
  [.sneReg 0 0, .ldIdx 0, .jpV0 0, .rnd 0 0, .drw 0 0 0, .skp 0, .sknp 0] ++
  [.ldVDt 0, .ldK 0, .ldDtV 0, .ldStV 0, .addIdx 0, .ldF 0, .ldB 0, .stRegs 0, .ldRegs 0]

/-- The 34 rows of opcode_table.json, in its order. -/
def opcodeTable : List OpcodeRow := sampleInstrs.map Instr.row

end Sys2Proof
end

