-- ==== Sys2Proof/Config.lean ====
section
/-! DEFINITION. What the spec leaves to the implementation: the parameters of 00_scope.md R8, and the random byte,
a free value. -/

namespace Sys2Proof

/-- ADDR_MODE (R8, R13): reduce an address mod 4096, or raise InvalidAddress above 0xFFF. -/
inductive AddrMode where
  | wrap
  | fault
deriving DecidableEq, Repr

/-- CALL_OVERFLOW (R8; 40_control_flow.md R102): what 2nnn does with a full stack. -/
inductive CallOverflow where
  | reject
  | jumpNoPush
deriving DecidableEq, Repr

/-- SHIFT_SRC (R8; 41_load_alu.md R130, R132): the register that 8xy6 and 8xyE shift. -/
inductive ShiftSrc where
  | vx
  | vy
deriving DecidableEq, Repr

/-- DIRTY_UPDATE (R8; 43_display.md R175): how Dxyn marks a cell it touches. -/
inductive DirtyUpdate where
  | set
  | toggle
deriving DecidableEq, Repr

/-- TIMER_MODE (R8; 44_timers_keys.md R190, R191): which operation decrements the timers. -/
inductive TimerMode where
  | coupled
  | independent
deriving DecidableEq, Repr

/-- KEY_INDEX_MODE (R8; 44_timers_keys.md R200): what Ex9E and ExA1 do with V[x] above 15. -/
inductive KeyIndexMode where
  | mask
  | fault
deriving DecidableEq, Repr

/-- The values of SPEED_MS (R8): a positive interval, in milliseconds. -/
abbrev PositiveMs := { ms : Nat // 0 < ms }

/-- The parameters of 00_scope.md R8. DESIGN CHOICE (log entry 1), safe: a state carries them in one field that nothing
writes, so a statement about every state holds for every value of every parameter. RND is `Config.rndByte`. -/
structure Config where
  addrMode : AddrMode
  callOverflow : CallOverflow
  shiftSrc : ShiftSrc
  dirtyUpdate : DirtyUpdate
  timerMode : TimerMode
  fx0aKeyMax : Fin 16
  keyIndexMode : KeyIndexMode
  font : Vector Byte 80
  speedMs : PositiveMs
deriving DecidableEq, Repr

/-- The default font, glyphs 0 to 7 (20_memory.md R52). PRESUMED (log entry 7), unsafe: the spec takes the bytes from
general knowledge and makes them the default of a parameter. -/
def Config.fontLow : List Byte :=
  [0xF0, 0x90, 0x90, 0x90, 0xF0] ++ [0x20, 0x60, 0x20, 0x20, 0x70] ++
  [0xF0, 0x10, 0xF0, 0x80, 0xF0] ++ [0xF0, 0x10, 0xF0, 0x10, 0xF0] ++
  [0x90, 0x90, 0xF0, 0x10, 0x10] ++ [0xF0, 0x80, 0xF0, 0x10, 0xF0] ++
  [0xF0, 0x80, 0xF0, 0x90, 0xF0] ++ [0xF0, 0x10, 0x20, 0x40, 0x40]

/-- The default font, glyphs 8 to F (20_memory.md R52). PRESUMED, as `Config.fontLow`. -/
def Config.fontHigh : List Byte :=
  [0xF0, 0x90, 0xF0, 0x90, 0xF0] ++ [0xF0, 0x90, 0xF0, 0x10, 0xF0] ++
  [0xF0, 0x90, 0xF0, 0x90, 0x90] ++ [0xE0, 0x90, 0xE0, 0x90, 0xE0] ++
  [0xF0, 0x80, 0x80, 0x80, 0xF0] ++ [0xE0, 0x90, 0x90, 0x90, 0xE0] ++
  [0xF0, 0x80, 0xF0, 0x80, 0xF0] ++ [0xF0, 0x80, 0xF0, 0x80, 0x80]

/-- The 16 default glyphs, 80 bytes (R52). -/
def Config.defaultFont : Vector Byte 80 := ⟨(Config.fontLow ++ Config.fontHigh).toArray, rfl⟩

/-- The defaults of 00_scope.md R8. SPEED_MS is OPEN there: 1, the least positive interval, is a DESIGN CHOICE (log entry 5), unsafe only for a
statement about SPEED itself, since no rule depends on it. -/
def Config.default : Config where
  addrMode := .wrap
  callOverflow := .reject
  shiftSrc := .vx
  dirtyUpdate := .set
  timerMode := .coupled
  fx0aKeyMax := 14
  keyIndexMode := .mask
  font := Config.defaultFont
  speedMs := ⟨1, by decide⟩

/-- RND (R8; 41_load_alu.md R133, decision D19): a free value. The argument is the number of bytes drawn before, so each
Cxkk execution draws a fresh byte, under no law. DESIGN CHOICE (log entry 2). -/
opaque Config.rndByte : Nat → Byte

end Sys2Proof
end

