-- ==== Sys2Proof/Machine/State.lean ====
section
/-! DEFINITION. The state of the block (10_state.md), the EVENT result (60_exceptions.md R210), the ways a step can
stop, and the state after reset (R38). -/

namespace Sys2Proof.Machine

/-- RUN (10_state.md R34). -/
inductive RunState where
  | idle
  | running
  | paused
deriving DecidableEq, Repr

/-- The EVENT result of a TICK with its info (60_exceptions.md R210). Code and info as numbers: `Event.code`,
`Event.info`. -/
inductive Event where
  /-- 0 EV_NONE -/
  | evNone
  /-- 1 EV_UNASSIGNED, with the opcode -/
  | unassigned (op : Word)
  /-- 2 EV_STACK_OVERFLOW, with the PC -/
  | stackOverflow (pc : Word)
  /-- 3 EV_STACK_UNDERFLOW, with the PC -/
  | stackUnderflow (pc : Word)
  /-- 4 EV_INVALID_ADDRESS, with the exact out-of-range address -/
  | invalidAddress (a : Nat)
  /-- 5 EV_INVALID_INDEX, with V[x] -/
  | invalidIndex (v : Byte)
  /-- 6 EV_KEY_WAIT, with x -/
  | keyWait (x : RegIdx)
deriving DecidableEq, Repr

/-- Why the machine stops. No error of the spec stops it (60_exceptions.md R212): those are next states. -/
inductive Fault where
  /-- Raised by CALL and RET in a state whose SP is above 16, a value that 10_state.md R26 excludes and for which no rule
  names a stack entry. Safe (log entry 6): no run reaches such a state. -/
  | stackPointerOutOfRange
deriving DecidableEq, Repr

/-- Why an instruction has no meaning. -/
inductive Refusal where
  /-- Raised by an arm of `exec` whose instruction is not modelled; no arm raises it. Safe. -/
  | notModelled (mnemonic : String)
deriving DecidableEq, Repr

/-- 64 x 32 cells of one bit, as 32 rows of 64 (10_state.md R30, R31). `Grid.get` and `Grid.set` of Ops.lean address a
cell by its column x and its row y. -/
abbrev Grid := Vector (Vector Bool 64) 32

/-- A grid of 0s. -/
def Grid.blank : Grid := Vector.replicate 32 (Vector.replicate 64 false)

/-- Memory as (address, byte) pairs in the canonical form `Memory.WF` of Ops.lean: an unlisted address reads as its
reset content (20_memory.md R50, R51; log entry 8). -/
abbrev Memory := List Host.Cell

/-- The state of the block: one field for each piece of state of 10_state.md, and three fields of the model's own. -/
structure State where
  /-- The parameters of 00_scope.md R8; the model's own field, written by nothing (log entry 1). -/
  cfg : Config
  /-- V0 to VF (R20). -/
  v : Vector Byte 16
  /-- The index register I (R23). -/
  i : Word
  /-- The program counter (R24). -/
  pc : Word
  /-- The number of occupied stack entries (R26). -/
  sp : Word
  /-- The call stack (R27). -/
  stack : Vector Word 16
  /-- The delay timer (R28). -/
  dt : Byte
  /-- The sound timer (R28). -/
  st : Byte
  /-- MEM (R29). -/
  mem : Memory
  /-- The framebuffer (R30). -/
  fb : Grid
  /-- The dirty flags (R31). -/
  dirty : Grid
  /-- FULL_REDRAW (R32). -/
  fullRedraw : Bool
  /-- The key states (R33). -/
  keys : Vector Bool 16
  /-- RUN (R34). -/
  run : RunState
  /-- SPEED, in milliseconds (R35). -/
  speed : Nat
  /-- The EVENT port: what the last TICK reported (60_exceptions.md R210); the model's own field (log entry 3). -/
  event : Event
  /-- How many RND bytes have been drawn; the model's own field (log entry 2). -/
  draws : Nat
deriving DecidableEq, Repr

/-- The state that RESET leaves, for any parameters (10_state.md R38; 70_reset_and_hazards.md R240, R242). The zeros
that only the spec's decisions D24 and D34 give are log entry 4. -/
def State.init (cfg : Config) : State where
  cfg := cfg
  v := Vector.replicate 16 0
  i := 0
  pc := 0x200
  sp := 0
  stack := Vector.replicate 16 0
  dt := 0
  st := 0
  mem := []
  fb := Grid.blank
  dirty := Grid.blank
  fullRedraw := false
  keys := Vector.replicate 16 false
  run := .idle
  speed := cfg.speedMs.val
  event := .evNone
  draws := 0

/-- The block right after its first RESET, with the default parameters of 00_scope.md R8. -/
def State.reset : State := State.init Config.default

end Sys2Proof.Machine
end

