-- ==== Sys2Proof/Machine/Ops.lean ====
section
/-! DEFINITION. The operations that instructions share: registers, addresses, memory, the display grids, the stack,
the PC, the timers, and how an instruction ends: committing its writes or raising an event with none of them. -/

namespace Sys2Proof.Machine

/-- What one step answers. -/
abbrev Outcome := Host.Outcome State Fault Refusal

/-! ### Events (60_exceptions.md R210) -/

/-- The code of an event. -/
def Event.code : Event → Nat
  | .evNone => 0
  | .unassigned _ => 1
  | .stackOverflow _ => 2
  | .stackUnderflow _ => 3
  | .invalidAddress _ => 4
  | .invalidIndex _ => 5
  | .keyWait _ => 6

/-- The info of an event. -/
def Event.info : Event → Nat
  | .evNone => 0
  | .unassigned op => op.toNat
  | .stackOverflow pc => pc.toNat
  | .stackUnderflow pc => pc.toNat
  | .invalidAddress a => a
  | .invalidIndex v => v.toNat
  | .keyWait x => x.val

/-! ### Registers, timers and the event port -/

/-- `V[r]` (00_scope.md R11). -/
def State.readV (s : State) (r : RegIdx) : Byte := s.v[r]

/-- `V[r] <- b` (R11). No register is hardwired (10_state.md R20). -/
def State.writeV (s : State) (r : RegIdx) (b : Byte) : State := { s with v := s.v.set r b }

/-- `I <- w` (10_state.md R23). -/
def State.setI (s : State) (w : Word) : State := { s with i := w }

/-- `DT <- b` (10_state.md R28). -/
def State.setDt (s : State) (b : Byte) : State := { s with dt := b }

/-- `ST <- b` (10_state.md R28). -/
def State.setSt (s : State) (b : Byte) : State := { s with st := b }

/-- Drive the EVENT port. -/
def State.setEvent (s : State) (e : Event) : State := { s with event := e }

/-! ### How an instruction ends (00_scope.md R14) -/

/-- `raise E(info)` and `wait(E)`: none of the instruction's writes happens, PC stays, the event is reported. This is
all there is to an exception: no trap is ever taken (60_exceptions.md R212, R215). -/
def raise (e : Event) (s : State) : Outcome := .next (s.setEvent e)

/-- The instruction completes: its writes stand, and the event is EV_NONE. -/
def complete (t : State) : Outcome := .next (t.setEvent .evNone)

/-- An instruction's writes take effect together, or it raises and `s` stands but for the event. -/
def commit (s : State) : Except Event State → Outcome
  | .ok t => complete t
  | .error e => raise e s

/-! ### Addresses and PC (00_scope.md R13) -/

/-- `A(v)`. -/
def formAddr (cfg : Config) (v : Nat) : Except Event Nat :=
  match cfg.addrMode with
  | .wrap => .ok (v % 4096)
  | .fault => if v ≤ 0xFFF then .ok v else .error (.invalidAddress v)

/-- `A(v), A(v+1), …, A(v+n-1)`, in ascending order, so the first address out of range is the one reported
(20_memory.md R57; 60_exceptions.md R214). -/
def formAddrs (cfg : Config) (v : Nat) : Nat → Except Event (List Nat)
  | 0 => .ok []
  | n + 1 =>
    match formAddr cfg v with
    | .error e => .error e
    | .ok a =>
      match formAddrs cfg (v + 1) n with
      | .error e => .error e
      | .ok as => .ok (a :: as)

/-- `P(v)`. -/
def normPc (cfg : Config) (v : Nat) : Word :=
  match cfg.addrMode with
  | .wrap => BitVec.ofNat 16 (v % 4096)
  | .fault => BitVec.ofNat 16 (v % 65536)

/-- `PC <- P(v)`. -/
def State.jump (s : State) (v : Nat) : State := { s with pc := normPc s.cfg v }

/-- `PC <- P(PC + 2)` (00_scope.md R18). -/
def State.advance (s : State) : State := s.jump (s.pc.toNat + 2)

/-- `PC <- P(PC + 4)` when the condition holds, else `PC <- P(PC + 2)` (10_state.md R25; 40_control_flow.md R108). -/
def State.skipIf (s : State) (c : Bool) : State := if c then s.jump (s.pc.toNat + 4) else s.advance

/-! ### Memory (20_memory.md) -/

/-- What an address that is not listed reads as: the font in 0 to 79, and 0 above (R51, R52; log entry 8). -/
def Memory.unlisted (font : Vector Byte 80) (a : Nat) : Byte := font[a]?.getD 0

/-- The listed byte of an address. -/
def Memory.lookup : Memory → Nat → Option Byte
  | [], _ => none
  | (b, v) :: m, a => if b = a then some v else Memory.lookup m a

/-- The byte at an address. -/
def Memory.read (font : Vector Byte 80) (m : Memory) (a : Nat) : Byte :=
  (Memory.lookup m a).getD (Memory.unlisted font a)

/-- List a byte, keeping the addresses strictly rising. -/
def Memory.insert : Memory → Nat → Byte → Memory
  | [], a, v => [(a, v)]
  | (b, w) :: m, a, v =>
    if a < b then (a, v) :: (b, w) :: m
    else if a = b then (a, v) :: m
    else (b, w) :: Memory.insert m a v

/-- Unlist an address. -/
def Memory.erase (m : Memory) (a : Nat) : Memory := m.filter fun c => c.1 != a

/-- Set a byte: a byte equal to what the unlisted address reads as is not listed. -/
def Memory.write (font : Vector Byte 80) (m : Memory) (a : Nat) (v : Byte) : Memory :=
  if v = Memory.unlisted font a then Memory.erase m a else Memory.insert m a v

/-- The canonical form: addresses strictly rising and below 4096, and no entry equal to what its address reads as
unlisted. -/
abbrev Memory.WF (font : Vector Byte 80) (m : Memory) : Prop :=
  m.Pairwise (fun p q => p.1 < q.1) ∧ ∀ c ∈ m, c.1 < 4096 ∧ c.2 ≠ Memory.unlisted font c.1

/-- The canonical form, as a Bool. -/
def Memory.wf (font : Vector Byte 80) (m : Memory) : Bool := decide (Memory.WF font m)

/-- The byte of MEM at an address, with no check. -/
def State.readByte (s : State) (a : Nat) : Byte := Memory.read s.cfg.font s.mem a

/-- Set the byte of MEM at an address; nothing changes outside 0 to 4095 (20_memory.md R55). -/
def State.writeByte (s : State) (a : Nat) (b : Byte) : State :=
  if a < 4096 then { s with mem := Memory.write s.cfg.font s.mem a b } else s

/-- The memory component's read port (20_memory.md R55): outside 0 to 4095 it fails. -/
def memRead (s : State) (a : Nat) : Except Event Byte :=
  if a < 4096 then .ok (s.readByte a) else .error (.invalidAddress a)

/-- The memory component's write port (20_memory.md R55): outside 0 to 4095 it fails. -/
def memWrite (s : State) (a : Nat) (b : Byte) : Except Event State :=
  if a < 4096 then .ok (s.writeByte a b) else .error (.invalidAddress a)

/-- `MemRead(A(v), 1)` (20_memory.md R54). -/
def loadByte (s : State) (v : Nat) : Except Event Byte :=
  match formAddr s.cfg v with
  | .error e => .error e
  | .ok a => memRead s a

/-- `MemRead(A(v + k), 1)` for k from 0 to n-1, in ascending order (20_memory.md R57). -/
def loadBytes (s : State) (v : Nat) : Nat → Except Event (List Byte)
  | 0 => .ok []
  | n + 1 =>
    match loadByte s v with
    | .error e => .error e
    | .ok b =>
      match loadBytes s (v + 1) n with
      | .error e => .error e
      | .ok bs => .ok (b :: bs)

/-- `MemWrite` of each byte at its address, in the order given. -/
def writeAll : State → List Nat → List Byte → Except Event State
  | s, a :: as, b :: bs =>
    match memWrite s a b with
    | .error e => .error e
    | .ok t => writeAll t as bs
  | s, _, _ => .ok s

/-- Store bytes at `A(v)`, `A(v + 1)`, …: every address is formed before the first write (42_index_memory.md R153,
R154). -/
def storeBytes (s : State) (v : Nat) (bs : List Byte) : Except Event State :=
  match formAddrs s.cfg v bs.length with
  | .error e => .error e
  | .ok as => writeAll s as bs

/-- Fetch (30_encoding.md R72): two bytes, the one at PC first and high. -/
def fetch (s : State) : Except Event Word :=
  match loadByte s s.pc.toNat with
  | .error e => .error e
  | .ok hi =>
    match loadByte s (s.pc.toNat + 1) with
    | .error e => .error e
    | .ok lo => .ok (wordOfBytes hi lo)

/-! ### The display grids (10_state.md R30, R31) -/

/-- The cell at column x and row y; 0 outside the grid (R30; 43_display.md R180). -/
def Grid.get (g : Grid) (x y : Nat) : Bool :=
  if h : x < 64 ∧ y < 32 then (g[y]'h.2)[x]'h.1 else false

/-- Set the cell at column x and row y; no effect outside the grid (R30). -/
def Grid.set (g : Grid) (x y : Nat) (b : Bool) : Grid :=
  if h : x < 64 ∧ y < 32 then Vector.set g y (Vector.set (g[y]'h.2) x b h.1) h.2 else g

/-- XOR the cell with 1. -/
def Grid.toggle (g : Grid) (x y : Nat) : Grid := Grid.set g x y (!Grid.get g x y)

/-! ### The call stack (10_state.md R26, R27) -/

/-- SP holds a value that R26 allows. -/
def State.spValid (s : State) : Bool := decide (s.sp.toNat ≤ 16)

/-- `STACK[j]`; `j` is below 16 wherever an instruction reads it. -/
def State.stackEntry (s : State) (j : Nat) : Word := s.stack[j]?.getD 0

/-- Push: `STACK[SP] <- w; SP <- SP + 1` (R26). -/
def State.push (s : State) (w : Word) : State :=
  { s with stack := s.stack.setIfInBounds s.sp.toNat w, sp := BitVec.ofNat 16 (s.sp.toNat + 1) }

/-- Pop without the read: `SP <- SP - 1` (R26); the entry keeps what it held (R27). -/
def State.dropTop (s : State) : State := { s with sp := BitVec.ofNat 16 (s.sp.toNat - 1) }

/-- The entry a pop reads, `STACK[SP - 1]` (R26). -/
def State.topEntry (s : State) : Word := s.stackEntry (s.sp.toNat - 1)

/-! ### Timers (44_timers_keys.md R190) -/

/-- One less, and 0 stays 0. -/
def countDown (b : Byte) : Byte := if b = 0 then 0 else b - 1

/-- `TimerDecrement()`. -/
def timerDecrement (s : State) : State := { s with dt := countDown s.dt, st := countDown s.st }

end Sys2Proof.Machine
end

