-- ==== Sys2Proof/Machine/Operands.lean ====
section
/-! DEFINITION. The operand forms: shift sources, key indices, glyph addresses, digits, register ranges, sprite bits. -/

namespace Sys2Proof.Machine

/-- The source of 8xy6 and 8xyE: V[x] or V[y], as SHIFT_SRC says (41_load_alu.md R130, R132). -/
def shiftOperand (s : State) (x y : RegIdx) : Byte :=
  match s.cfg.shiftSrc with
  | .vx => s.readV x
  | .vy => s.readV y

/-- `KeyIndex(v)` (44_timers_keys.md R200). -/
def keyIndex (cfg : Config) (v : Byte) : Except Event Nat :=
  match cfg.keyIndexMode with
  | .mask => .ok (v.toNat % 16)
  | .fault => if v.toNat ≤ 15 then .ok v.toNat else .error (.invalidIndex v)

/-- `KEYS[k]`, for k in 0 to 15 (10_state.md R33). -/
def State.key (s : State) (k : Nat) : Bool := s.keys[k]?.getD false

/-- `min { k in 0..FX0A_KEY_MAX : KEYS[k] = 1 }`, if any key of the range is held (44_timers_keys.md R199). -/
def lowestHeldKey (s : State) : Option Nat :=
  (List.range (s.cfg.fx0aKeyMax.val + 1)).find? s.key

/-- `V[x] * 5`, with V[x] not masked (42_index_memory.md R152; 20_memory.md R53). -/
def glyphAddress (b : Byte) : Word := BitVec.ofNat 16 (b.toNat * 5)

/-- Hundreds, tens and units of a byte (42_index_memory.md R153). -/
def bcdDigits (b : Byte) : List Byte :=
  [BitVec.ofNat 8 (b.toNat / 100), BitVec.ofNat 8 (b.toNat / 10 % 10), BitVec.ofNat 8 (b.toNat % 10)]

/-- V0 to Vx, in ascending order (42_index_memory.md R154). -/
def State.regsUpTo (s : State) (x : RegIdx) : List Byte := s.v.toList.take (x.val + 1)

/-- `V[k] <- b` for k in 0 to 15, and nothing otherwise. -/
def State.writeVNat (s : State) (k : Nat) (b : Byte) : State :=
  if h : k < 16 then s.writeV ⟨k, h⟩ b else s

/-- `V[k] <- b` for each byte in turn, k rising (42_index_memory.md R155). -/
def State.writeRegsFrom (s : State) (k : Nat) : List Byte → State
  | [] => s
  | b :: bs => (s.writeVNat k b).writeRegsFrom (k + 1) bs

/-- The sprite bit of column c: bit 7 is the leftmost (43_display.md R172). -/
def spriteBit (row : Byte) (c : Nat) : Bool := row.getLsbD (7 - c)

end Sys2Proof.Machine
end

