-- ==== Sys2Proof/Machine/Flags.lean ====
section
/-! DEFINITION. The results that come with a flag, computed exactly and narrowed at the end (00_scope.md R10), and the
order of result and flag (41_load_alu.md R121). -/

namespace Sys2Proof.Machine

/-- A flag as the byte VF receives: 1 or 0 (10_state.md R21). -/
def flagByte (c : Bool) : Byte := if c then 1 else 0

/-- Write a result and then its flag, so VF ends as the flag when x = F (41_load_alu.md R121). -/
def State.writeResultAndFlag (s : State) (x : RegIdx) (result : Byte) (flag : Bool) : State :=
  (s.writeV x result).writeV vf (flagByte flag)

/-- `(a + b) mod 256` (R123, R128). -/
def sumByte (a b : Byte) : Byte := BitVec.ofNat 8 ((a.toNat + b.toNat) % 256)

/-- The carry of 8xy4: the exact sum exceeds 255 (R128). -/
def carryFlag (a b : Byte) : Bool := decide (a.toNat + b.toNat > 255)

/-- `(a - b) mod 256` (R129, R131). -/
def differenceByte (a b : Byte) : Byte := BitVec.ofInt 8 (((a.toNat : Int) - (b.toNat : Int)) % 256)

/-- The flag of 8xy5 and 8xy7: the minuend is strictly greater (R129, R131). -/
def greaterFlag (a b : Byte) : Bool := decide (a.toNat > b.toNat)

/-- `s div 2` (R130). -/
def shiftRightByte (a : Byte) : Byte := BitVec.ofNat 8 (a.toNat / 2)

/-- The bit that 8xy6 shifts out, `s mod 2` (R130). -/
def lowBitFlag (a : Byte) : Bool := decide (a.toNat % 2 = 1)

/-- `(s * 2) mod 256` (R132). -/
def shiftLeftByte (a : Byte) : Byte := BitVec.ofNat 8 (a.toNat * 2 % 256)

/-- The bit that 8xyE shifts out, `s div 128` (R132). -/
def highBitFlag (a : Byte) : Bool := decide (a.toNat / 128 = 1)

/-- What I keeps of an exact sum: 12 bits under WRAP, 16 under FAULT (42_index_memory.md R151). -/
def indexSum (cfg : Config) (sum : Nat) : Word :=
  match cfg.addrMode with
  | .wrap => BitVec.ofNat 16 (sum % 4096)
  | .fault => BitVec.ofNat 16 (sum % 65536)

/-- The overflow of Fx1E: the exact sum exceeds 0xFFF (42_index_memory.md R151). -/
def indexOverflowFlag (sum : Nat) : Bool := decide (sum > 0xFFF)

end Sys2Proof.Machine
end

