-- ==== Sys2Proof/Machine/ControlFlow.lean ====
section
/-! DEFINITION. Control flow: 00EE, 1nnn, 2nnn, 3xkk, 4xkk, 5xy0, 9xy0, Bnnn (40_control_flow.md). -/

namespace Sys2Proof.Machine

/-- 00EE RET (R100). -/
def execRet (s : State) : Outcome :=
  if s.spValid then
    if s.sp.toNat = 0 then raise (.stackUnderflow s.pc) s
    else complete (s.dropTop.jump (s.topEntry.toNat + 2))
  else .fault .stackPointerOutOfRange

/-- 1nnn JP nnn (R101). -/
def execJp (nnn : Word) (s : State) : Outcome := complete (s.jump nnn.toNat)

/-- 2nnn with the stack full (R102): CALL_OVERFLOW rejects it, or jumps without a push and reports the event. -/
def callWithFullStack (nnn : Word) (s : State) : Outcome :=
  match s.cfg.callOverflow with
  | .reject => raise (.stackOverflow s.pc) s
  | .jumpNoPush => .next ((s.jump nnn.toNat).setEvent (.stackOverflow s.pc))

/-- 2nnn CALL nnn (R102): the PC pushed is that of the CALL itself. -/
def execCall (nnn : Word) (s : State) : Outcome :=
  if s.spValid then
    if s.sp.toNat = 16 then callWithFullStack nnn s
    else complete ((s.push s.pc).jump nnn.toNat)
  else .fault .stackPointerOutOfRange

/-- 3xkk SE Vx, kk (R103). -/
def execSeImm (x : RegIdx) (kk : Byte) (s : State) : Outcome := complete (s.skipIf (s.readV x == kk))

/-- 4xkk SNE Vx, kk (R104). -/
def execSneImm (x : RegIdx) (kk : Byte) (s : State) : Outcome := complete (s.skipIf (s.readV x != kk))

/-- 5xy0 SE Vx, Vy (R105). -/
def execSeReg (x y : RegIdx) (s : State) : Outcome := complete (s.skipIf (s.readV x == s.readV y))

/-- 9xy0 SNE Vx, Vy (R106). -/
def execSneReg (x y : RegIdx) (s : State) : Outcome := complete (s.skipIf (s.readV x != s.readV y))

/-- Bnnn JP V0, nnn (R107). -/
def execJpV0 (nnn : Word) (s : State) : Outcome := complete (s.jump ((s.readV 0).toNat + nnn.toNat))

end Sys2Proof.Machine
end

