-- ==== Sys2Proof/Machine/Display.lean ====
section
/-! DEFINITION. The framebuffer and the sprite compositor: 00E0, Dxyn (43_display.md). -/

namespace Sys2Proof.Machine

/-- Clear every pixel and every dirty flag, and ask for a full redraw (R170). -/
def clearDisplay (s : State) : State := { s with fb := Grid.blank, dirty := Grid.blank, fullRedraw := true }

/-- 00E0 CLS (R170). -/
def execCls (s : State) : Outcome := complete (clearDisplay s).advance

/-- What a draw changes: pixels, dirty flags and the collision so far (R171). -/
structure Drawing where
  fb : Grid
  dirty : Grid
  coll : Bool
deriving DecidableEq, Repr

/-- `DirtyMark(tx, ty)` (R175). -/
def dirtyMark (mode : DirtyUpdate) (dirty : Grid) (tx ty : Nat) : Grid :=
  match mode with
  | .set => Grid.set dirty tx ty true
  | .toggle => Grid.toggle dirty tx ty

/-- A set sprite bit meets the pixel (tx, ty): collision, XOR and dirty mark when it is in bounds, nothing otherwise
(R171, R174). -/
def drawPixel (mode : DirtyUpdate) (tx ty : Nat) (d : Drawing) : Drawing :=
  if tx < 64 ∧ ty < 32 then
    { fb := Grid.toggle d.fb tx ty, dirty := dirtyMark mode d.dirty tx ty, coll := d.coll || Grid.get d.fb tx ty }
  else d

/-- The eight columns of one sprite byte, from the left (R171, R172). -/
def drawRow (mode : DirtyUpdate) (px y : Nat) (row : Byte) (d : Drawing) : Drawing :=
  (List.range 8).foldl (fun d c => if spriteBit row c then drawPixel mode (px + c) y d else d) d

/-- The rows of a sprite, from the top (R171, R172). -/
def drawRows (mode : DirtyUpdate) (px : Nat) : Nat → List Byte → Drawing → Drawing
  | _, [], d => d
  | y, row :: rows, d => drawRows mode px (y + 1) rows (drawRow mode px y row d)

/-- Draw the rows of a sprite at (px, py), which is used as it is (R174), from no collision. -/
def State.drawing (s : State) (px py : Nat) (rows : List Byte) : Drawing :=
  drawRows s.cfg.dirtyUpdate px py rows { fb := s.fb, dirty := s.dirty, coll := false }

/-- Take over the pixels and dirty flags of a drawing. -/
def State.setDisplay (s : State) (d : Drawing) : State := { s with fb := d.fb, dirty := d.dirty }

/-- Draw, then write the collision to VF (R171, R176). -/
def drawSprite (s : State) (px py : Nat) (rows : List Byte) : State :=
  (s.setDisplay (s.drawing px py rows)).writeV vf (flagByte (s.drawing px py rows).coll)

/-- Dxyn DRW Vx, Vy, n (R171): the sprite's bytes are all read before any pixel changes (R177). -/
def execDrw (x y : RegIdx) (n : Nat) (s : State) : Outcome :=
  commit s ((loadBytes s s.i.toNat n).map fun rows =>
    (drawSprite s (s.readV x).toNat (s.readV y).toNat rows).advance)

end Sys2Proof.Machine
end

