-- ==== Sys2Proof/Machine/IndexMemory.lean ====
section
/-! DEFINITION. The index register and memory transfers: Annn, Fx1E, Fx29, Fx33, Fx55, Fx65 (42_index_memory.md). -/

namespace Sys2Proof.Machine

/-- Annn LD I, nnn (R150). -/
def execLdIdx (nnn : Word) (s : State) : Outcome := complete (s.setI nnn).advance

/-- The exact sum of Fx1E (R151). -/
def exactIndexSum (s : State) (x : RegIdx) : Nat := s.i.toNat + (s.readV x).toNat

/-- Fx1E ADD I, Vx (R151): VF is always written. -/
def execAddIdx (x : RegIdx) (s : State) : Outcome :=
  complete ((s.setI (indexSum s.cfg (exactIndexSum s x))).writeV vf
    (flagByte (indexOverflowFlag (exactIndexSum s x)))).advance

/-- Fx29 LD F, Vx (R152). -/
def execLdF (x : RegIdx) (s : State) : Outcome := complete (s.setI (glyphAddress (s.readV x))).advance

/-- Store bytes from A(I) on and advance, or raise with no effect (R153, R154). -/
def storeAtIndex (bs : List Byte) (s : State) : Outcome :=
  commit s ((storeBytes s s.i.toNat bs).map State.advance)

/-- Fx33 LD B, Vx (R153). -/
def execLdB (x : RegIdx) (s : State) : Outcome := storeAtIndex (bcdDigits (s.readV x)) s

/-- Fx55 LD [I], Vx (R154): I is unchanged. -/
def execStRegs (x : RegIdx) (s : State) : Outcome := storeAtIndex (s.regsUpTo x) s

/-- Fx65 LD Vx, [I] (R155): I is unchanged. -/
def execLdRegs (x : RegIdx) (s : State) : Outcome :=
  commit s ((loadBytes s s.i.toNat (x.val + 1)).map fun bs => (s.writeRegsFrom 0 bs).advance)

end Sys2Proof.Machine
end

