-- ==== Sys2Proof/Machine/LoadAlu.lean ====
section
/-! DEFINITION. Register loads and arithmetic: 6xkk, 7xkk, 8xy0 to 8xyE, Cxkk (41_load_alu.md). -/

namespace Sys2Proof.Machine

/-- `V[x] <- result; PC <- P(PC + 2)`. -/
def finishResult (s : State) (x : RegIdx) (result : Byte) : Outcome := complete (s.writeV x result).advance

/-- `V[x] <- result; V[15] <- flag; PC <- P(PC + 2)` (R121). -/
def finishResultAndFlag (s : State) (x : RegIdx) (result : Byte) (flag : Bool) : Outcome :=
  complete (s.writeResultAndFlag x result flag).advance

/-- 6xkk LD Vx, kk (R122). -/
def execLdImm (x : RegIdx) (kk : Byte) (s : State) : Outcome := finishResult s x kk

/-- 7xkk ADD Vx, kk (R123): no carry. -/
def execAddImm (x : RegIdx) (kk : Byte) (s : State) : Outcome := finishResult s x (sumByte (s.readV x) kk)

/-- 8xy0 LD Vx, Vy (R124). -/
def execLdReg (x y : RegIdx) (s : State) : Outcome := finishResult s x (s.readV y)

/-- 8xy1 OR Vx, Vy (R125). -/
def execOr (x y : RegIdx) (s : State) : Outcome := finishResult s x (s.readV x ||| s.readV y)

/-- 8xy2 AND Vx, Vy (R126). -/
def execAnd (x y : RegIdx) (s : State) : Outcome := finishResult s x (s.readV x &&& s.readV y)

/-- 8xy3 XOR Vx, Vy (R127). -/
def execXor (x y : RegIdx) (s : State) : Outcome := finishResult s x (s.readV x ^^^ s.readV y)

/-- 8xy4 ADD Vx, Vy (R128). -/
def execAddReg (x y : RegIdx) (s : State) : Outcome :=
  finishResultAndFlag s x (sumByte (s.readV x) (s.readV y)) (carryFlag (s.readV x) (s.readV y))

/-- 8xy5 SUB Vx, Vy (R129). -/
def execSub (x y : RegIdx) (s : State) : Outcome :=
  finishResultAndFlag s x (differenceByte (s.readV x) (s.readV y)) (greaterFlag (s.readV x) (s.readV y))

/-- 8xy6 SHR Vx, Vy (R130). -/
def execShr (x y : RegIdx) (s : State) : Outcome :=
  finishResultAndFlag s x (shiftRightByte (shiftOperand s x y)) (lowBitFlag (shiftOperand s x y))

/-- 8xy7 SUBN Vx, Vy (R131). -/
def execSubn (x y : RegIdx) (s : State) : Outcome :=
  finishResultAndFlag s x (differenceByte (s.readV y) (s.readV x)) (greaterFlag (s.readV y) (s.readV x))

/-- 8xyE SHL Vx, Vy (R132). -/
def execShl (x y : RegIdx) (s : State) : Outcome :=
  finishResultAndFlag s x (shiftLeftByte (shiftOperand s x y)) (highBitFlag (shiftOperand s x y))

/-- A byte has been drawn: the next Cxkk draws another (log entry 2). -/
def State.countDraw (s : State) : State := { s with draws := s.draws + 1 }

/-- Cxkk with the byte drawn (R133). -/
def rndWith (r : Byte) (x : RegIdx) (kk : Byte) (s : State) : Outcome := finishResult s.countDraw x (r &&& kk)

/-- Cxkk RND Vx, kk (R133): the byte is a free value. -/
def execRnd (x : RegIdx) (kk : Byte) (s : State) : Outcome := rndWith (Config.rndByte s.draws) x kk s

end Sys2Proof.Machine
end

