-- ==== Sys2Proof/Machine/TimersKeys.lean ====
section
/-! DEFINITION. Timers and keys: Fx07, Fx15, Fx18, Ex9E, ExA1, Fx0A (44_timers_keys.md). -/

namespace Sys2Proof.Machine

/-- Fx07 LD Vx, DT (R194). -/
def execLdVDt (x : RegIdx) (s : State) : Outcome := complete (s.writeV x s.dt).advance

/-- Fx15 LD DT, Vx (R195). -/
def execLdDtV (x : RegIdx) (s : State) : Outcome := complete (s.setDt (s.readV x)).advance

/-- Fx18 LD ST, Vx (R196). -/
def execLdStV (x : RegIdx) (s : State) : Outcome := complete (s.setSt (s.readV x)).advance

/-- Skip if the key numbered by V[x] is in the state `pressed`, or raise InvalidIndex (R197, R198, R200). -/
def skipOnKey (pressed : Bool) (x : RegIdx) (s : State) : Outcome :=
  commit s ((keyIndex s.cfg (s.readV x)).map fun k => s.skipIf (s.key k == pressed))

/-- Ex9E SKP Vx (R197). -/
def execSkp (x : RegIdx) (s : State) : Outcome := skipOnKey true x s

/-- ExA1 SKNP Vx (R198). -/
def execSknp (x : RegIdx) (s : State) : Outcome := skipOnKey false x s

/-- Fx0A LD Vx, K (R199): capture the lowest held key of the range, or wait, to be retried on the next tick. -/
def execLdK (x : RegIdx) (s : State) : Outcome :=
  match lowestHeldKey s with
  | none => raise (.keyWait x) s
  | some k => complete (s.writeV x (BitVec.ofNat 8 k)).advance

end Sys2Proof.Machine
end

