-- ==== Sys2Proof/Machine/Tick.lean ====
section
/-! DEFINITION. One TICK: timer decrement, fetch, decode, execute (30_encoding.md R70). -/

namespace Sys2Proof.Machine

/-- The tick's own timer decrement, only under TIMER_MODE = COUPLED (44_timers_keys.md R190, R191). -/
def tickTimers (s : State) : State :=
  match s.cfg.timerMode with
  | .coupled => timerDecrement s
  | .independent => s

/-- Execute what a word decodes to; an unassigned word has no effect but its event (30_encoding.md R80). -/
def execDecoded (d : Decoded) (s : State) : Outcome :=
  match d with
  | .instr i => exec i s
  | .unassigned op => raise (.unassigned op) s

/-- Fetch, decode and execute; a raise in the fetch makes the tick a no-op tick (30_encoding.md R72). -/
def fetchDecodeExecute (s : State) : Outcome :=
  match fetch s with
  | .error e => raise e s
  | .ok op => execDecoded (decode op) s

/-- A TICK outside RUNNING has no effect and reports EV_NONE (30_encoding.md R70; 70_reset_and_hazards.md R246). -/
def tick (s : State) : Outcome :=
  match s.run with
  | .running => fetchDecodeExecute (tickTimers s)
  | .idle => complete s
  | .paused => complete s

end Sys2Proof.Machine
end

