-- ==== Sys2Proof/Machine/Step.lean ====
section
/-! DEFINITION. The step of the machine, which is one TICK, and where the next step fetches from. -/

namespace Sys2Proof.Machine

/-- One step is one TICK (30_encoding.md R70, R71; log entry 10). -/
def step (s : State) : Host.Outcome State Fault Refusal := tick s

/-- PC when both bytes of a fetch there are in range, else the entry point 0x200 (30_encoding.md R72). -/
def State.fetchablePc (s : State) : Word :=
  match fetch s with
  | .ok _ => s.pc
  | .error _ => 0x200

/-- Store a byte at `A(v)`, where that address exists. -/
def State.placeByte (s : State) (v : Nat) (b : Byte) : State :=
  match formAddr s.cfg v with
  | .ok a => s.writeByte a b
  | .error _ => s

/-- `s` with the word stored where the next step fetches, high byte first, and RUN = RUNNING, since a TICK acts in no
other run state: it stands for a LOAD of that word (70_reset_and_hazards.md R243; log entry 9). -/
def State.withFetchWord (s : State) (nbits w : Nat) : State :=
  let t := { s with pc := s.fetchablePc, run := .running }
  (t.placeByte t.pc.toNat (highByte (tableWord nbits w))).placeByte (t.pc.toNat + 1) (lowByte (tableWord nbits w))

end Sys2Proof.Machine
end

