-- ==== Sys2Proof/Machine/Interface.lean ====
section
/-! DEFINITION. The block's interface (00_scope.md R6): every operation of the host, the tick driver, the timer driver
and the renderer as one atomic transaction, and any sequence of them in one total order (decision D27). -/

namespace Sys2Proof.Machine

/-- The operations of 00_scope.md R6. TICK's RND byte is the free value `Config.rndByte`. -/
inductive IfaceOp where
  | reset
  | load (rom : List Byte)
  | pause
  | resume
  | setSpeed (ms : Nat)
  | tick
  | timerTick
  | keyPress (i : Int)
  | keyRelease (i : Int)
  | keyQuery (i : Int)
  | fbRead (x y : Int)
  | fbReadFullRedraw
  | fbClearDirty (x y : Int)
  | fbClearFullRedraw
  | soundActive
  | runState
deriving DecidableEq, Repr

/-- What an operation returns (00_scope.md R6; decision D22). -/
inductive IfaceResult where
  | done
  | loadOk
  | loadOutOfSpace
  | ok
  | keyInvalidIndex
  | bit (b : Bool)
  | cell (pixel dirty : Bool)
  | event (e : Event)
  | runState (r : RunState)
deriving DecidableEq, Repr

/-- RESET (70_reset_and_hazards.md R240, R241): SPEED, the parameters and the count of bytes drawn are kept
(10_state.md R38; log entry 15). -/
def resetOp (s : State) : State := { State.init s.cfg with speed := s.speed, draws := s.draws }

/-- `MEM[a + k] <- rom[k]` for each k in turn. -/
def copyRom (s : State) (a : Nat) : List Byte → State
  | [] => s
  | b :: bs => copyRom (s.writeByte a b) (a + 1) bs

/-- LOAD that fits: reset, font, ROM copy, enter RUNNING (70_reset_and_hazards.md R243, R245). -/
def loadProgram (s : State) (rom : List Byte) : State := { copyRom (resetOp s) 0x200 rom with run := .running }

/-- LOAD (70_reset_and_hazards.md R243): a ROM longer than 3584 bytes changes nothing. -/
def loadOp (rom : List Byte) (s : State) : State × IfaceResult :=
  if rom.length > 4096 - 512 then (s, .loadOutOfSpace) else (loadProgram s rom, .loadOk)

/-- PAUSE acts only in RUNNING (70_reset_and_hazards.md R246, R247). -/
def pauseOp (s : State) : State :=
  match s.run with
  | .running => { s with run := .paused }
  | .idle => s
  | .paused => s

/-- RESUME acts only in PAUSED (70_reset_and_hazards.md R246, R247). -/
def resumeOp (s : State) : State :=
  match s.run with
  | .paused => { s with run := .running }
  | .idle => s
  | .running => s

/-- SET_SPEED, in any run state (70_reset_and_hazards.md R249). -/
def setSpeedOp (ms : Nat) (s : State) : State := { s with speed := ms }

/-- TIMER_TICK: one TimerDecrement, only under INDEPENDENT and in RUNNING (44_timers_keys.md R191). -/
def timerTickOp (s : State) : State :=
  match s.cfg.timerMode, s.run with
  | .independent, .running => timerDecrement s
  | .independent, .idle => s
  | .independent, .paused => s
  | .coupled, _ => s

/-- The key number of an integer in 0 to 15 (44_timers_keys.md R204). -/
def keyNumber (i : Int) : Option Nat := if 0 ≤ i ∧ i ≤ 15 then some i.toNat else none

/-- `KEYS[k] <- b`. -/
def State.setKey (s : State) (k : Nat) (b : Bool) : State := { s with keys := s.keys.setIfInBounds k b }

/-- KEY_PRESS and KEY_RELEASE, in every run state (44_timers_keys.md R204). -/
def keySetOp (i : Int) (b : Bool) (s : State) : State × IfaceResult :=
  match keyNumber i with
  | some k => (s.setKey k b, .ok)
  | none => (s, .keyInvalidIndex)

/-- KEY_QUERY (44_timers_keys.md R204). -/
def keyQueryOp (i : Int) (s : State) : IfaceResult :=
  match keyNumber i with
  | some k => .bit (s.key k)
  | none => .keyInvalidIndex

/-- The column and row of a cell on the screen (43_display.md R180, R181). -/
def cellNumber (x y : Int) : Option (Nat × Nat) :=
  if 0 ≤ x ∧ x < 64 ∧ 0 ≤ y ∧ y < 32 then some (x.toNat, y.toNat) else none

/-- FB_READ: (0, 0) outside the screen (43_display.md R180). -/
def fbReadOp (x y : Int) (s : State) : IfaceResult :=
  match cellNumber x y with
  | some (cx, cy) => .cell (Grid.get s.fb cx cy) (Grid.get s.dirty cx cy)
  | none => .cell false false

/-- FB_CLEAR_DIRTY: nothing outside the screen (43_display.md R181). -/
def fbClearDirtyOp (x y : Int) (s : State) : State :=
  match cellNumber x y with
  | some (cx, cy) => { s with dirty := Grid.set s.dirty cx cy false }
  | none => s

/-- FB_CLEAR_FULL_REDRAW (43_display.md R181). -/
def fbClearFullRedrawOp (s : State) : State := { s with fullRedraw := false }

/-- SOUND_ACTIVE = (ST != 0) (44_timers_keys.md R193). -/
def soundActive (s : State) : Bool := s.st != 0

/-- TICK as an operation: the step, with its EVENT as the result (60_exceptions.md R210). -/
def tickOp (s : State) : Host.Outcome (State × IfaceResult) Fault Refusal :=
  match step s with
  | .next t => .next (t, .event t.event)
  | .fault f => .fault f
  | .refused r => .refused r

/-- One transaction of the interface (00_scope.md R6). -/
def transact (op : IfaceOp) (s : State) : Host.Outcome (State × IfaceResult) Fault Refusal :=
  match op with
  | .reset => .next (resetOp s, .done)
  | .load rom => .next (loadOp rom s)
  | .pause => .next (pauseOp s, .done)
  | .resume => .next (resumeOp s, .done)
  | .setSpeed ms => .next (setSpeedOp ms s, .done)
  | .tick => tickOp s
  | .timerTick => .next (timerTickOp s, .done)
  | .keyPress i => .next (keySetOp i true s)
  | .keyRelease i => .next (keySetOp i false s)
  | .keyQuery i => .next (s, keyQueryOp i s)
  | .fbRead x y => .next (s, fbReadOp x y s)
  | .fbReadFullRedraw => .next (s, .bit s.fullRedraw)
  | .fbClearDirty x y => .next (fbClearDirtyOp x y s, .done)
  | .fbClearFullRedraw => .next (fbClearFullRedrawOp s, .done)
  | .soundActive => .next (s, .bit (soundActive s))
  | .runState => .next (s, .runState s.run)

/-- Any sequence of operations, in its order, with the result of each (70_reset_and_hazards.md R262). -/
def transactAll : List IfaceOp → State → Host.Outcome (State × List IfaceResult) Fault Refusal
  | [], s => .next (s, [])
  | op :: ops, s =>
    match transact op s with
    | .fault f => .fault f
    | .refused r => .refused r
    | .next (t, r) =>
      match transactAll ops t with
      | .fault f => .fault f
      | .refused q => .refused q
      | .next (u, rs) => .next (u, r :: rs)

end Sys2Proof.Machine
end

