-- ==== Sys2Proof/Safety.lean ====
section
/-! DEFINITION. The terms that claims use: the invariant of the machine, the pieces of state a frame speaks of, the
tables of the spec that hold for every instruction, and what 'stopped at p' means. -/

namespace Sys2Proof.Machine

/-! ### The invariant -/

/-- Memory is canonical; SP counts at most 16 entries (10_state.md R26); under WRAP, PC, I and every occupied stack entry
are addresses of memory (R23, R24, R27). -/
abbrev State.Inv (s : State) : Prop :=
  Memory.WF s.cfg.font s.mem ∧ s.sp.toNat ≤ 16 ∧
  (s.cfg.addrMode = .wrap → s.pc.toNat ≤ 0xFFF ∧ s.i.toNat ≤ 0xFFF) ∧
  (s.cfg.addrMode = .wrap → ∀ j < s.sp.toNat, (s.stackEntry j).toNat ≤ 0xFFF)

/-! ### Frames -/

/-- The pieces of state, as an observer reads them one by one. -/
inductive Part where
  | cfg
  | v (r : RegIdx)
  | i
  | pc
  | sp
  | stack (j : Nat)
  | dt
  | st
  | byte (a : Nat)
  | pixel (x y : Nat)
  | dirty (x y : Nat)
  | fullRedraw
  | key (k : Nat)
  | run
  | speed
  | event
  | draws
deriving DecidableEq, Repr

/-- Two states read the same at a piece of state. -/
def SamePart (s t : State) : Part → Prop
  | .cfg => t.cfg = s.cfg
  | .v r => t.readV r = s.readV r
  | .i => t.i = s.i
  | .pc => t.pc = s.pc
  | .sp => t.sp = s.sp
  | .stack j => t.stackEntry j = s.stackEntry j
  | .dt => t.dt = s.dt
  | .st => t.st = s.st
  | .byte a => t.readByte a = s.readByte a
  | .pixel x y => Grid.get t.fb x y = Grid.get s.fb x y
  | .dirty x y => Grid.get t.dirty x y = Grid.get s.dirty x y
  | .fullRedraw => t.fullRedraw = s.fullRedraw
  | .key k => t.key k = s.key k
  | .run => t.run = s.run
  | .speed => t.speed = s.speed
  | .event => t.event = s.event
  | .draws => t.draws = s.draws

/-- Every piece of state reads as before, except those that `changed` names. -/
def UnchangedExcept (changed : Part → Prop) (s t : State) : Prop := ∀ p, ¬ changed p → SamePart s t p

/-- The address A(v) exists and is `a` (00_scope.md R13). -/
def AddressIs (cfg : Config) (v a : Nat) : Prop := formAddr cfg v = .ok a

/-- `a` is none of A(v), …, A(v + n - 1): an address outside a transfer of n bytes at v. -/
def OutsideTransfer (cfg : Config) (v n a : Nat) : Prop := ∀ k < n, ¬ AddressIs cfg (v + k) a

/-- All of A(v), …, A(v + n - 1) exist: always under WRAP, and up to 0xFFF under FAULT (20_memory.md R54). -/
def TransferInRange (cfg : Config) (v n : Nat) : Prop :=
  match cfg.addrMode with
  | .wrap => True
  | .fault => n = 0 ∨ v + n ≤ 0x1000

/-- The first of v, v + 1, … above 0xFFF (60_exceptions.md R214). -/
def firstOutOfRange (v : Nat) : Nat := if v ≤ 0xFFF then 0x1000 else v

/-! ### Tables of the spec that cover every instruction -/

/-- What an instruction may write, in the state it starts from: the write column of 10_state.md R40, with R20 to R33.
PC is written by all; the event port and the count of draws are the model's own. -/
def mayWrite (i : Instr) (s : State) (p : Part) : Prop :=
  p = .pc ∨ p = .event ∨
  match i with
  | .cls => (∃ x y, p = .pixel x y) ∨ (∃ x y, p = .dirty x y) ∨ p = .fullRedraw
  | .ret => p = .sp
  | .jp _ | .jpV0 _ => False
  | .call _ => p = .sp ∨ p = .stack s.sp.toNat
  | .seImm _ _ | .sneImm _ _ | .seReg _ _ | .sneReg _ _ | .skp _ | .sknp _ => False
  | .ldImm x _ | .addImm x _ | .ldReg x _ | .or x _ | .and x _ | .xor x _ => p = .v x
  | .addReg x _ | .sub x _ | .shr x _ | .subn x _ | .shl x _ => p = .v x ∨ p = .v vf
  | .ldIdx _ | .ldF _ => p = .i
  | .rnd x _ => p = .v x ∨ p = .draws
  | .drw _ _ _ => (∃ x y, p = .pixel x y) ∨ (∃ x y, p = .dirty x y) ∨ p = .v vf
  | .ldVDt x | .ldK x => p = .v x
  | .ldDtV _ => p = .dt
  | .ldStV _ => p = .st
  | .addIdx _ => p = .i ∨ p = .v vf
  | .ldB _ => ∃ k a, k < 3 ∧ AddressIs s.cfg (s.i.toNat + k) a ∧ p = .byte a
  | .stRegs x => ∃ k a, k ≤ x.val ∧ AddressIs s.cfg (s.i.toNat + k) a ∧ p = .byte a
  | .ldRegs x => ∃ r : RegIdx, r ≤ x ∧ p = .v r

/-- The condition of a skip instruction (40_control_flow.md R103 to R106; 44_timers_keys.md R197, R198). -/
def skipHolds (i : Instr) (s : State) : Bool :=
  match i with
  | .seImm x kk => decide ((s.readV x).toNat = kk.toNat)
  | .sneImm x kk => decide ((s.readV x).toNat ≠ kk.toNat)
  | .seReg x y => decide ((s.readV x).toNat = (s.readV y).toNat)
  | .sneReg x y => decide ((s.readV x).toNat ≠ (s.readV y).toNat)
  | .skp x => s.key ((s.readV x).toNat % 16)
  | .sknp x => !s.key ((s.readV x).toNat % 16)
  | _ => false

/-- The event an instruction reports from a state whose SP is at most 16: the 'raised by' column of
60_exceptions.md R210, with the info of each. -/
def expectedEvent (i : Instr) (s : State) : Event :=
  match i with
  | .ret => if s.sp.toNat = 0 then .stackUnderflow s.pc else .evNone
  | .call _ => if s.sp.toNat = 16 then .stackOverflow s.pc else .evNone
  | .ldB _ => if s.cfg.addrMode = .fault ∧ s.i.toNat + 2 > 0xFFF then .invalidAddress (firstOutOfRange s.i.toNat) else .evNone
  | .stRegs x | .ldRegs x =>
    if s.cfg.addrMode = .fault ∧ s.i.toNat + x.val > 0xFFF then .invalidAddress (firstOutOfRange s.i.toNat) else .evNone
  | .drw _ _ n =>
    if s.cfg.addrMode = .fault ∧ 0 < n ∧ s.i.toNat + n - 1 > 0xFFF then .invalidAddress (firstOutOfRange s.i.toNat)
    else .evNone
  | .skp x | .sknp x =>
    if s.cfg.keyIndexMode = .fault ∧ (s.readV x).toNat > 15 then .invalidIndex (s.readV x) else .evNone
  | .ldK x => if ∀ k ≤ s.cfg.fx0aKeyMax.val, s.key k = false then .keyWait x else .evNone
  | .cls | .jp _ | .jpV0 _ | .seImm _ _ | .sneImm _ _ | .seReg _ _ | .sneReg _ _ => .evNone
  | .ldImm _ _ | .addImm _ _ | .ldReg _ _ | .or _ _ | .and _ _ | .xor _ _ | .addReg _ _ => .evNone
  | .sub _ _ | .shr _ _ | .subn _ _ | .shl _ _ | .rnd _ _ => .evNone
  | .ldIdx _ | .addIdx _ | .ldF _ | .ldVDt _ | .ldDtV _ | .ldStV _ => .evNone

/-- PC after an instruction that reports EV_NONE: the rows of 10_state.md R25 but the last. -/
def pcAfter (i : Instr) (s : State) : Word :=
  match i with
  | .jp nnn | .call nnn => normPc s.cfg nnn.toNat
  | .jpV0 nnn => normPc s.cfg ((s.readV 0).toNat + nnn.toNat)
  | .ret => normPc s.cfg ((s.stackEntry (s.sp.toNat - 1)).toNat + 2)
  | .seImm _ _ | .sneImm _ _ | .seReg _ _ | .sneReg _ _ | .skp _ | .sknp _ =>
    normPc s.cfg (s.pc.toNat + (if skipHolds i s then 4 else 2))
  | .cls | .ldImm _ _ | .addImm _ _ | .ldReg _ _ | .or _ _ | .and _ _ | .xor _ _ => normPc s.cfg (s.pc.toNat + 2)
  | .addReg _ _ | .sub _ _ | .shr _ _ | .subn _ _ | .shl _ _ | .ldIdx _ => normPc s.cfg (s.pc.toNat + 2)
  | .rnd _ _ | .drw _ _ _ | .ldVDt _ | .ldK _ | .ldDtV _ | .ldStV _ => normPc s.cfg (s.pc.toNat + 2)
  | .addIdx _ | .ldF _ | .ldB _ | .stRegs _ | .ldRegs _ => normPc s.cfg (s.pc.toNat + 2)

/-! ### Sprites -/

/-- A sprite of the given rows with its top left corner at (px, py) has a set bit over the cell (cx, cy)
(43_display.md R171, R172). -/
def spriteCovers (rows : List Byte) (px py cx cy : Nat) : Bool :=
  decide (px ≤ cx) && decide (cx < px + 8) && decide (py ≤ cy) && decide (cy < py + rows.length) &&
    ((rows[cy - py]?).getD 0).getLsbD (7 - (cx - px))

/-- A cell of the screen (10_state.md R30). -/
abbrev OnScreen (cx cy : Nat) : Prop := cx < 64 ∧ cy < 32

/-- Some set bit of the sprite falls on a cell of the screen that is on (43_display.md R176). -/
def Collides (fb : Grid) (rows : List Byte) (px py : Nat) : Prop :=
  ∃ cx cy, OnScreen cx cy ∧ spriteCovers rows px py cx cy = true ∧ Grid.get fb cx cy = true

/-- The rows of a sprite of n bytes at I (43_display.md R171). -/
def SpriteRows (s : State) (n : Nat) (rows : List Byte) : Prop :=
  rows.length = n ∧ ∀ r < n, ∃ a, AddressIs s.cfg (s.i.toNat + r) a ∧ rows[r]? = some (s.readByte a)

/-! ### Ticks -/

/-- The word that the tick of a RUNNING state fetches and the instruction it decodes to (30_encoding.md R70). -/
def TickExecutes (s : State) (i : Instr) : Prop :=
  s.run = .running ∧ ∃ op, fetch (tickTimers s) = .ok op ∧ decode op = .instr i

/-- None of the next n ticks executes an instruction that `p` names. -/
def NoneOfNextTicks (p : Instr → Prop) : Nat → State → Prop
  | 0, _ => True
  | n + 1, s => (∀ i, TickExecutes s i → ¬ p i) ∧ ∀ t, step s = .next t → NoneOfNextTicks p n t

/-- The word leaves PC on itself in this state: the forms of 70_reset_and_hazards.md R255 but the failing fetch. -/
def SelfRepeating (s : State) : Decoded → Prop
  | .unassigned _ => True
  | .instr .ret => s.sp.toNat = 0
  | .instr (.call _) => s.sp.toNat = 16 ∧ s.cfg.callOverflow = .reject
  | .instr (.ldK _) => ∀ k ≤ s.cfg.fx0aKeyMax.val, s.key k = false
  | .instr (.ldB _) => ¬ TransferInRange s.cfg s.i.toNat 3
  | .instr (.stRegs x) => ¬ TransferInRange s.cfg s.i.toNat (x.val + 1)
  | .instr (.ldRegs x) => ¬ TransferInRange s.cfg s.i.toNat (x.val + 1)
  | .instr (.drw _ _ n) => ¬ TransferInRange s.cfg s.i.toNat n
  | .instr (.skp x) => s.cfg.keyIndexMode = .fault ∧ (s.readV x).toNat > 15
  | .instr (.sknp x) => s.cfg.keyIndexMode = .fault ∧ (s.readV x).toNat > 15
  | .instr (.jp nnn) => nnn = s.pc ∧ normPc s.cfg s.pc.toNat = s.pc
  | .instr _ => False

/-- 'Stopped at p' (70_reset_and_hazards.md R263), in a state that is RUNNING. -/
def StoppedAt (p : Word) (s : State) : Prop :=
  s.run = .running ∧ s.pc = p ∧
  match fetch s with
  | .error _ => True
  | .ok op => SelfRepeating s (decode op)

/-- Everything a program can observe is the same: all but DIRTY, FULL_REDRAW, ST, SPEED and the event port
(10_state.md R28, R31, R32, R35, R39; 60_exceptions.md R210). -/
def SameForProgram (s t : State) : Prop :=
  t = { s with dirty := t.dirty, fullRedraw := t.fullRedraw, st := t.st, speed := t.speed, event := t.event }

/-- The renderer's operations (43_display.md R180, R181). -/
def IfaceOp.isRenderer : IfaceOp → Bool
  | .fbRead _ _ | .fbReadFullRedraw | .fbClearDirty _ _ | .fbClearFullRedraw => true
  | .reset | .load _ | .pause | .resume | .setSpeed _ | .tick | .timerTick => false
  | .keyPress _ | .keyRelease _ | .keyQuery _ | .soundActive | .runState => false

end Sys2Proof.Machine
end

