-- ==== Sys2Proof/Certificates/Slice0/Obligations.lean ====
section
/-! DEFINITION. The statements for the provers. Each docstring names the rule of spec/ it formalises. -/

open Sys2Proof Sys2Proof.Machine

/-! ### Encoding -/

/-- Decoding the word of a well-formed instruction gives the instruction back (30_encoding.md R74, R76, R79). -/
def Obligations.DecodeOfEncodeIsTheInstruction : Prop :=
  ∀ i : Instr, i.wellFormed = true → decode (encode i) = .instr i

/-- Every assigned word decodes to a well-formed instruction whose word it is: no bit is dropped, and no two words share
an instruction (30_encoding.md R81, R84). -/
def Obligations.EncodeOfDecodeIsTheWord : Prop :=
  ∀ (op : Word) (i : Instr), decode op = .instr i → i.wellFormed = true ∧ encode i = op

/-- The decoder and the rows of opcode_table.json agree: 34 different rows, no word fits two, and a word is an
instruction exactly when it fits a row, which is then the instruction's own (30_encoding.md R84, R86). -/
def Obligations.DecodeFollowsTheOpcodeTable : Prop :=
  opcodeTable.length = 34 ∧ opcodeTable.Nodup ∧
  ∀ op : Word,
    (∀ r₁ ∈ opcodeTable, ∀ r₂ ∈ opcodeTable, r₁.fits op = true → r₂.fits op = true → r₁ = r₂) ∧
    ((∃ r ∈ opcodeTable, r.fits op = true) ↔ ∃ i, decode op = .instr i) ∧
    (∀ i, decode op = .instr i → i.row ∈ opcodeTable ∧ i.row.fits op = true) ∧
    ((∀ r ∈ opcodeTable, r.fits op = false) → decode op = .unassigned op)

/-- The complete unassigned set (30_encoding.md R82). That decode is strict is the spec's decision D20 (log entry 13). -/
def Obligations.UnassignedWordsAreExactlyTheListedOnes : Prop :=
  ∀ op : Word,
    let high := op.toNat / 4096
    let low := op.toNat % 16
    let byte := op.toNat % 256
    let listed :=
      (op.toNat ≤ 0x0FFF ∧ op.toNat ≠ 0x00E0 ∧ op.toNat ≠ 0x00EE) ∨
      (high = 5 ∧ low ≠ 0) ∨
      (high = 8 ∧ low ∈ [0x8, 0x9, 0xA, 0xB, 0xC, 0xD, 0xF]) ∨
      (high = 9 ∧ low ≠ 0) ∨
      (high = 0xE ∧ byte ∉ [0x9E, 0xA1]) ∨
      (high = 0xF ∧ byte ∉ [0x07, 0x0A, 0x15, 0x18, 0x1E, 0x29, 0x33, 0x55, 0x65])
    (listed → decode op = .unassigned op) ∧ (¬ listed → ∃ i, decode op = .instr i)

/-- The fields of an opcode (30_encoding.md R76). -/
def Obligations.FieldsAreTheBitSlices : Prop :=
  ∀ op : Word,
    (opX op).val = op.toNat / 2 ^ 8 % 2 ^ 4 ∧ (opY op).val = op.toNat / 2 ^ 4 % 2 ^ 4 ∧ opN op = op.toNat % 2 ^ 4 ∧
    (opKK op).toNat = op.toNat % 2 ^ 8 ∧ (opNNN op).toNat = op.toNat % 2 ^ 12

/-- One word of each format, written out bit by bit (30_encoding.md R75, which the spec derives from R74 and R76). -/
def Obligations.ExampleWordsDecode : Prop :=
  decode 0b0000000011100000 = .instr .cls ∧
  decode 0b1010001000101010 = .instr (.ldIdx 0x22A) ∧
  decode 0b0110101000000101 = .instr (.ldImm 0xA 0x05) ∧
  decode 0b1000000100100100 = .instr (.addReg 1 2) ∧
  decode 0b1101000000010101 = .instr (.drw 0 1 5) ∧
  decode 0b1111001000110011 = .instr (.ldB 2)

/-! ### The tick -/

/-- When the bytes at PC decode to an instruction, a step of a RUNNING state is exec of that instruction, at the state
after the tick's timer decrement; nothing else is added around it (30_encoding.md R70, R71, R72). -/
def Obligations.StepRunsTheDecodedInstruction : Prop :=
  ∀ (s : State) (a b : Nat) (i : Instr),
    s.run = .running → AddressIs s.cfg s.pc.toNat a → AddressIs s.cfg (s.pc.toNat + 1) b →
    decode (wordOfBytes (s.readByte a) (s.readByte b)) = .instr i → step s = exec i (tickTimers s)

/-- An unassigned word has no effect but its event, and the next tick fetches it again (30_encoding.md R80). The event is
the spec's decisions D21 and D22 (log entry 13), and its port is the model's (log entry 3). -/
def Obligations.UnassignedWordIsANoOpTick : Prop :=
  ∀ (s : State) (op : Word),
    s.run = .running → fetch s = .ok op → decode op = .unassigned op →
    ∃ t, step s = .next t ∧ t = { tickTimers s with event := .unassigned op } ∧
      t.event.code = 1 ∧ t.event.info = op.toNat ∧ t.pc = s.pc ∧ t.run = .running ∧ fetch t = .ok op

/-- The fetch is big-endian, from A(PC) and A(PC + 1); under FAULT it raises at 0xFFF and above, and the tick is then a
no-op tick whose timer decrement stands (30_encoding.md R72). -/
def Obligations.FetchIsBigEndian : Prop :=
  ∀ s : State,
    (s.cfg.addrMode = .wrap →
      ∃ op, fetch s = .ok op ∧
        op.toNat = (s.readByte (s.pc.toNat % 4096)).toNat * 256 + (s.readByte ((s.pc.toNat + 1) % 4096)).toNat) ∧
    (s.cfg.addrMode = .fault → s.pc.toNat < 0xFFF →
      ∃ op, fetch s = .ok op ∧
        op.toNat = (s.readByte s.pc.toNat).toNat * 256 + (s.readByte (s.pc.toNat + 1)).toNat) ∧
    (s.cfg.addrMode = .fault → s.pc.toNat = 0xFFF → fetch s = .error (.invalidAddress 0x1000)) ∧
    (s.cfg.addrMode = .fault → s.pc.toNat > 0xFFF → fetch s = .error (.invalidAddress s.pc.toNat)) ∧
    (∀ e, s.run = .running → fetch s = .error e → step s = .next { tickTimers s with event := e })

/-- The primitives A and P (00_scope.md R13), for both values of ADDR_MODE. The parameter and the width of PC under FAULT
are the spec's decisions D1 and D2 (log entry 13). -/
def Obligations.AddressesAndPcAreNormalised : Prop :=
  ∀ (cfg : Config) (v : Nat),
    (cfg.addrMode = .wrap → formAddr cfg v = .ok (v % 4096) ∧ (normPc cfg v).toNat = v % 4096) ∧
    (cfg.addrMode = .fault →
      (v ≤ 0xFFF → formAddr cfg v = .ok v) ∧ (v > 0xFFF → formAddr cfg v = .error (.invalidAddress v)) ∧
      (normPc cfg v).toNat = v % 65536)

/-- TimerDecrement, and that a RUNNING tick under COUPLED performs it once, before its fetch, whatever follows
(44_timers_keys.md R190). -/
def Obligations.TimersCountDownOncePerTick : Prop :=
  ∀ s : State,
    (timerDecrement s).dt.toNat = (if s.dt.toNat > 0 then s.dt.toNat - 1 else 0) ∧
    (timerDecrement s).st.toNat = (if s.st.toNat > 0 then s.st.toNat - 1 else 0) ∧
    UnchangedExcept (fun p => p = .dt ∨ p = .st) s (timerDecrement s) ∧
    (s.cfg.timerMode = .coupled → s.run = .running →
      step s = fetchDecodeExecute (timerDecrement s) ∧
      ∀ t, step s = .next t → t.event ≠ .evNone → t.dt = (timerDecrement s).dt ∧ t.st = (timerDecrement s).st)

/-- Under INDEPENDENT a TICK does not decrement and TIMER_TICK does, only in RUNNING; under COUPLED TIMER_TICK has no
effect (44_timers_keys.md R191). SOUND_ACTIVE is the level ST != 0 (R193). The two choices are the spec's decisions D15
and D16 (log entry 13). -/
def Obligations.TimerTickAndSoundActive : Prop :=
  ∀ s : State,
    (s.cfg.timerMode = .independent → s.run = .running → step s = fetchDecodeExecute s) ∧
    (s.cfg.timerMode = .independent → s.run = .running →
      transact .timerTick s = .next (timerDecrement s, .done)) ∧
    (s.cfg.timerMode = .coupled ∨ s.run ≠ .running → transact .timerTick s = .next (s, .done)) ∧
    transact .soundActive s = .next (s, .bit (decide (s.st.toNat ≠ 0))) ∧
    (soundActive s = true → soundActive (timerDecrement s) = false → s.st.toNat = 1)

/-- 'Stopped at p' is kept by every number of ticks, which change nothing but DT, ST and the event port
(70_reset_and_hazards.md R263, R255, which the spec marks as its own definition; log entry 13). -/
def Obligations.StoppedMachineStaysStopped : Prop :=
  ∀ (n : Nat) (p : Word) (s : State), StoppedAt p s →
    ∃ t : State, Host.Core.run Sys2Proof.core n s = .next t ∧ StoppedAt p t ∧
      UnchangedExcept (fun q => q = .dt ∨ q = .st ∨ q = .event) s t ∧
      (s.cfg.timerMode = .coupled → t.dt.toNat = s.dt.toNat - n ∧ t.st.toNat = s.st.toNat - n) ∧
      (s.cfg.timerMode = .independent → t.dt = s.dt ∧ t.st = s.st)

/-- Under COUPLED, n ticks of which none executes Fx15 lower DT by n, stopping at 0, and Fx07 in the tick after reads it
lowered once more; the same for ST and Fx18 (44_timers_keys.md R192). -/
def Obligations.DelayTimerCountsTicks : Prop :=
  ∀ (n : Nat) (s u : State),
    s.cfg.timerMode = .coupled → s.run = .running → Host.Core.run Sys2Proof.core n s = .next u →
    (NoneOfNextTicks (fun i => ∃ x, i = .ldDtV x) n s →
      u.dt.toNat = s.dt.toNat - n ∧
      ∀ x, TickExecutes u (.ldVDt x) →
        ∃ w, step u = .next w ∧ (w.readV x).toNat = s.dt.toNat - (n + 1)) ∧
    (NoneOfNextTicks (fun i => ∃ x, i = .ldStV x) n s → u.st.toNat = s.st.toNat - n)

/-- The word that `withFetchWord` places is what the next step executes. This is the model's own convention for how a
program comes to run (log entry 9). -/
def Obligations.PlacedWordIsTheNextInstruction : Prop :=
  ∀ (s : State) (w : Nat) (i : Instr), decodeTableWord 16 w = some i →
    (s.withFetchWord 16 w).run = .running ∧ fetch (s.withFetchWord 16 w) = .ok (BitVec.ofNat 16 w) ∧
    step (s.withFetchWord 16 w) = exec i (tickTimers (s.withFetchWord 16 w))

/-! ### Reset, loading and the run states -/

/-- RESET loads the font (70_reset_and_hazards.md R241). -/
def Obligations.ResetLoadsTheFont : Prop :=
  ∀ s : State, ∃ t, transact .reset s = .next (t, .done) ∧
    ∀ k (h : k < 80), t.readByte k = s.cfg.font[k] ∧ (State.init s.cfg).readByte k = s.cfg.font[k]

/-- The values that RESET leaves (10_state.md R38). PC, I, RUN and the font are the source's; the zeros are the spec's
decisions D24 and D34 (log entry 4), so this rests on the spec's own choice. SPEED, the parameters and the count of
draws are kept (log entry 15). -/
def Obligations.ResetLeavesTheListedValues : Prop :=
  ∀ s : State, ∃ t, transact .reset s = .next (t, .done) ∧
    t.pc = 0x200 ∧ t.i = 0 ∧ (∀ r, t.readV r = 0) ∧ t.sp = 0 ∧ (∀ j, t.stackEntry j = 0) ∧ t.dt = 0 ∧ t.st = 0 ∧
    (∀ a, 80 ≤ a → t.readByte a = 0) ∧ (∀ x y, Grid.get t.fb x y = false ∧ Grid.get t.dirty x y = false) ∧
    t.fullRedraw = false ∧ (∀ k, t.key k = false) ∧ t.run = .idle ∧ t.speed = s.speed ∧ t.cfg = s.cfg ∧
    t.draws = s.draws

/-- LOAD: a ROM over 3584 bytes changes nothing; any other leaves the state that RESET leaves, with the ROM from 0x200
on and RUN = RUNNING (70_reset_and_hazards.md R243). That a long ROM is rejected, and the zeros of RESET, are the spec's
decisions D26 and D24 (log entry 13). -/
def Obligations.LoadCopiesTheRomOrChangesNothing : Prop :=
  ∀ (rom : List Byte) (s : State),
    (rom.length > 3584 → transact (.load rom) s = .next (s, .loadOutOfSpace)) ∧
    (rom.length ≤ 3584 → ∃ r t, transact .reset s = .next (r, .done) ∧ transact (.load rom) s = .next (t, .loadOk) ∧
      t.run = .running ∧ (∀ k (h : k < rom.length), t.readByte (0x200 + k) = rom[k]) ∧
      UnchangedExcept (fun p => p = .run ∨ ∃ k, k < rom.length ∧ p = .byte (0x200 + k)) r t)

/-- The run state machine (70_reset_and_hazards.md R246, R247, R249). The entries 'no effect' are the spec's decision D28
(log entry 13). -/
def Obligations.RunStateMachine : Prop :=
  ∀ s : State,
    (∃ t, transact .reset s = .next (t, .done) ∧ t.run = .idle) ∧
    (s.run = .running → transact .pause s = .next ({ s with run := .paused }, .done)) ∧
    (s.run ≠ .running → transact .pause s = .next (s, .done)) ∧
    (s.run = .paused → transact .resume s = .next ({ s with run := .running }, .done)) ∧
    (s.run ≠ .paused → transact .resume s = .next (s, .done)) ∧
    (∀ ms, transact (.setSpeed ms) s = .next ({ s with speed := ms }, .done)) ∧
    (s.run ≠ .running → transact .tick s = .next ({ s with event := .evNone }, .event .evNone)) ∧
    (∀ t, step s = .next t → t.run = s.run) ∧
    transact .runState s = .next (s, .runState s.run)

/-! ### Control flow -/

/-- 1nnn JP (40_control_flow.md R101). -/
def Obligations.JumpSetsPc : Prop :=
  (∀ op, slice op 12 4 = 0x1 → decode op = .instr (.jp (opNNN op))) ∧
  ∀ (nnn : Word) (s : State), ∃ t, exec (.jp nnn) s = .next t ∧ t.pc = normPc s.cfg nnn.toNat ∧
    UnchangedExcept (fun p => p = .pc ∨ p = .event) s t

/-- 00EE RET (40_control_flow.md R100): with an empty stack only the event is reported, else it pops and returns to the
instruction after the call. The event is the spec's decision D4 (log entry 13). -/
def Obligations.ReturnPopsTheStack : Prop :=
  (∀ op, decode op = .instr .ret ↔ op = 0x00EE) ∧
  ∀ s : State,
    (s.sp.toNat = 0 → exec .ret s = .next { s with event := .stackUnderflow s.pc }) ∧
    (0 < s.sp.toNat → s.sp.toNat ≤ 16 → ∃ t, exec .ret s = .next t ∧ t.sp.toNat = s.sp.toNat - 1 ∧
      t.pc = normPc s.cfg ((s.stackEntry (s.sp.toNat - 1)).toNat + 2) ∧
      UnchangedExcept (fun p => p = .sp ∨ p = .pc ∨ p = .event) s t)

/-- 2nnn CALL (40_control_flow.md R102): it pushes its own address; with a full stack CALL_OVERFLOW decides, which is the
spec's decision D3 (log entry 13). -/
def Obligations.CallPushesItsOwnAddress : Prop :=
  (∀ op, slice op 12 4 = 0x2 → decode op = .instr (.call (opNNN op))) ∧
  ∀ (nnn : Word) (s : State),
    (s.sp.toNat < 16 → ∃ t, exec (.call nnn) s = .next t ∧ t.stackEntry s.sp.toNat = s.pc ∧
      t.sp.toNat = s.sp.toNat + 1 ∧ t.pc = normPc s.cfg nnn.toNat ∧
      UnchangedExcept (fun p => p = .stack s.sp.toNat ∨ p = .sp ∨ p = .pc ∨ p = .event) s t) ∧
    (s.sp.toNat = 16 → s.cfg.callOverflow = .reject →
      exec (.call nnn) s = .next { s with event := .stackOverflow s.pc }) ∧
    (s.sp.toNat = 16 → s.cfg.callOverflow = .jumpNoPush → ∃ t, exec (.call nnn) s = .next t ∧
      t.event = .stackOverflow s.pc ∧ t.pc = normPc s.cfg nnn.toNat ∧
      UnchangedExcept (fun p => p = .pc ∨ p = .event) s t)

/-- The stack round trip, with any code between that leaves SP and the occupied entries as it found them
(40_control_flow.md R110, which names SP only: code that returns and calls again would leave SP and not the entry). A
17th call leaves SP and the entries alone. -/
def Obligations.CallThenReturnComesBack : Prop :=
  (∀ (nnn : Word) (s t u : State), s.sp.toNat < 16 → exec (.call nnn) s = .next t →
    u.cfg = t.cfg → u.sp = t.sp → (∀ j < t.sp.toNat, u.stackEntry j = t.stackEntry j) →
    ∃ w, exec .ret u = .next w ∧ w.pc = normPc s.cfg (s.pc.toNat + 2) ∧ w.sp = s.sp ∧
      ∀ j < s.sp.toNat, w.stackEntry j = s.stackEntry j) ∧
  ∀ (nnn : Word) (s : State), s.sp.toNat = 16 →
    ∃ t, exec (.call nnn) s = .next t ∧ t.sp = s.sp ∧ ∀ j, t.stackEntry j = s.stackEntry j

/-- No instruction is refused, and the only fault is CALL or RET in a state whose SP is above 16, which 10_state.md R26
excludes. That they stop there is the model's choice (log entry 6). -/
def Obligations.OnlyABadStackPointerStops : Prop :=
  ∀ (i : Instr) (s : State),
    (∀ r, exec i s ≠ .refused r) ∧
    ((∃ f, exec i s = .fault f) ↔ s.sp.toNat > 16 ∧ (i = .ret ∨ ∃ nnn, i = .call nnn))

/-- The four skips on registers (40_control_flow.md R103 to R106): 4 when the condition holds, else 2. -/
def Obligations.SkipsCompareRegisters : Prop :=
  (∀ op, slice op 12 4 = 0x3 → decode op = .instr (.seImm (opX op) (opKK op))) ∧
  (∀ op, slice op 12 4 = 0x4 → decode op = .instr (.sneImm (opX op) (opKK op))) ∧
  (∀ op, slice op 12 4 = 0x5 → slice op 0 4 = 0 → decode op = .instr (.seReg (opX op) (opY op))) ∧
  (∀ op, slice op 12 4 = 0x9 → slice op 0 4 = 0 → decode op = .instr (.sneReg (opX op) (opY op))) ∧
  (∀ op, slice op 12 4 = 0x5 ∨ slice op 12 4 = 0x9 → slice op 0 4 ≠ 0 → decode op = .unassigned op) ∧
  ∀ (x y : RegIdx) (kk : Byte) (s : State),
    (∃ t, exec (.seImm x kk) s = .next t ∧ UnchangedExcept (fun p => p = .pc ∨ p = .event) s t ∧
      t.pc = normPc s.cfg (s.pc.toNat + if (s.readV x).toNat = kk.toNat then 4 else 2)) ∧
    (∃ t, exec (.sneImm x kk) s = .next t ∧ UnchangedExcept (fun p => p = .pc ∨ p = .event) s t ∧
      t.pc = normPc s.cfg (s.pc.toNat + if (s.readV x).toNat ≠ kk.toNat then 4 else 2)) ∧
    (∃ t, exec (.seReg x y) s = .next t ∧ UnchangedExcept (fun p => p = .pc ∨ p = .event) s t ∧
      t.pc = normPc s.cfg (s.pc.toNat + if (s.readV x).toNat = (s.readV y).toNat then 4 else 2)) ∧
    (∃ t, exec (.sneReg x y) s = .next t ∧ UnchangedExcept (fun p => p = .pc ∨ p = .event) s t ∧
      t.pc = normPc s.cfg (s.pc.toNat + if (s.readV x).toNat ≠ (s.readV y).toNat then 4 else 2))

/-- Bnnn JP V0 (40_control_flow.md R107). -/
def Obligations.ComputedJumpAddsV0 : Prop :=
  (∀ op, slice op 12 4 = 0xB → decode op = .instr (.jpV0 (opNNN op))) ∧
  ∀ (nnn : Word) (s : State), ∃ t, exec (.jpV0 nnn) s = .next t ∧
    t.pc = normPc s.cfg ((s.readV 0).toNat + nnn.toNat) ∧ UnchangedExcept (fun p => p = .pc ∨ p = .event) s t

/-! ### Loads and arithmetic -/

/-- 6xkk, 7xkk and 8xy0 (41_load_alu.md R122, R123, R124). -/
def Obligations.LoadAddAndCopyWriteOneRegister : Prop :=
  (∀ op, slice op 12 4 = 0x6 → decode op = .instr (.ldImm (opX op) (opKK op))) ∧
  (∀ op, slice op 12 4 = 0x7 → decode op = .instr (.addImm (opX op) (opKK op))) ∧
  (∀ op, slice op 12 4 = 0x8 → slice op 0 4 = 0 → decode op = .instr (.ldReg (opX op) (opY op))) ∧
  ∀ (x y : RegIdx) (kk : Byte) (s : State),
    (∃ t, exec (.ldImm x kk) s = .next t ∧ t.readV x = kk ∧ t.pc = normPc s.cfg (s.pc.toNat + 2) ∧
      UnchangedExcept (fun p => p = .v x ∨ p = .pc ∨ p = .event) s t) ∧
    (∃ t, exec (.addImm x kk) s = .next t ∧ (t.readV x).toNat = ((s.readV x).toNat + kk.toNat) % 256 ∧
      t.pc = normPc s.cfg (s.pc.toNat + 2) ∧ UnchangedExcept (fun p => p = .v x ∨ p = .pc ∨ p = .event) s t) ∧
    (∃ t, exec (.ldReg x y) s = .next t ∧ t.readV x = s.readV y ∧ t.pc = normPc s.cfg (s.pc.toNat + 2) ∧
      UnchangedExcept (fun p => p = .v x ∨ p = .pc ∨ p = .event) s t)

/-- 8xy1, 8xy2, 8xy3, bit by bit; VF is written only as x = F (41_load_alu.md R125, R126, R127). That VF is left alone is
the spec's decision D8, and the function nibbles its decision D9 (log entry 13). -/
def Obligations.LogicActsBitwiseAndLeavesVf : Prop :=
  (∀ op, slice op 12 4 = 0x8 → slice op 0 4 = 0x1 → decode op = .instr (.or (opX op) (opY op))) ∧
  (∀ op, slice op 12 4 = 0x8 → slice op 0 4 = 0x2 → decode op = .instr (.and (opX op) (opY op))) ∧
  (∀ op, slice op 12 4 = 0x8 → slice op 0 4 = 0x3 → decode op = .instr (.xor (opX op) (opY op))) ∧
  ∀ (x y : RegIdx) (s : State),
    (∃ t, exec (.or x y) s = .next t ∧ t.pc = normPc s.cfg (s.pc.toNat + 2) ∧
      (∀ k < 8, (t.readV x).getLsbD k = ((s.readV x).getLsbD k || (s.readV y).getLsbD k)) ∧
      UnchangedExcept (fun p => p = .v x ∨ p = .pc ∨ p = .event) s t) ∧
    (∃ t, exec (.and x y) s = .next t ∧ t.pc = normPc s.cfg (s.pc.toNat + 2) ∧
      (∀ k < 8, (t.readV x).getLsbD k = ((s.readV x).getLsbD k && (s.readV y).getLsbD k)) ∧
      UnchangedExcept (fun p => p = .v x ∨ p = .pc ∨ p = .event) s t) ∧
    (∃ t, exec (.xor x y) s = .next t ∧ t.pc = normPc s.cfg (s.pc.toNat + 2) ∧
      (∀ k < 8, (t.readV x).getLsbD k = ((s.readV x).getLsbD k != (s.readV y).getLsbD k)) ∧
      UnchangedExcept (fun p => p = .v x ∨ p = .pc ∨ p = .event) s t)

/-- 8xy4 (41_load_alu.md R128). That VF ends as the carry when x = F is the spec's decision D7 (log entry 13). -/
def Obligations.AddReportsTheCarry : Prop :=
  (∀ op, slice op 12 4 = 0x8 → slice op 0 4 = 0x4 → decode op = .instr (.addReg (opX op) (opY op))) ∧
  ∀ (x y : RegIdx) (s : State), ∃ t, exec (.addReg x y) s = .next t ∧
    (x ≠ vf → (t.readV x).toNat = ((s.readV x).toNat + (s.readV y).toNat) % 256) ∧
    (t.readV vf).toNat = (if (s.readV x).toNat + (s.readV y).toNat > 255 then 1 else 0) ∧
    t.pc = normPc s.cfg (s.pc.toNat + 2) ∧
    UnchangedExcept (fun p => p = .v x ∨ p = .v vf ∨ p = .pc ∨ p = .event) s t

/-- 8xy5 and 8xy7, whose flag is a strict comparison (41_load_alu.md R129, R131). That VF ends as the flag when x = F is
the spec's decision D7, and the nibble 7 its decision D9 (log entry 13). -/
def Obligations.SubtractReportsStrictlyGreater : Prop :=
  (∀ op, slice op 12 4 = 0x8 → slice op 0 4 = 0x5 → decode op = .instr (.sub (opX op) (opY op))) ∧
  (∀ op, slice op 12 4 = 0x8 → slice op 0 4 = 0x7 → decode op = .instr (.subn (opX op) (opY op))) ∧
  ∀ (x y : RegIdx) (s : State),
    (∃ t, exec (.sub x y) s = .next t ∧
      (x ≠ vf → ((t.readV x).toNat : Int) = (((s.readV x).toNat : Int) - (s.readV y).toNat) % 256) ∧
      (t.readV vf).toNat = (if (s.readV x).toNat > (s.readV y).toNat then 1 else 0) ∧
      t.pc = normPc s.cfg (s.pc.toNat + 2) ∧
      UnchangedExcept (fun p => p = .v x ∨ p = .v vf ∨ p = .pc ∨ p = .event) s t) ∧
    (∃ t, exec (.subn x y) s = .next t ∧
      (x ≠ vf → ((t.readV x).toNat : Int) = (((s.readV y).toNat : Int) - (s.readV x).toNat) % 256) ∧
      (t.readV vf).toNat = (if (s.readV y).toNat > (s.readV x).toNat then 1 else 0) ∧
      t.pc = normPc s.cfg (s.pc.toNat + 2) ∧
      UnchangedExcept (fun p => p = .v x ∨ p = .v vf ∨ p = .pc ∨ p = .event) s t)

/-- 8xy6 and 8xyE on the register that SHIFT_SRC names (41_load_alu.md R130, R132). The parameter is the spec's
decision D6, that VF ends as the flag when x = F its decision D7, and the nibble 6 its decision D9 (log entry 13). -/
def Obligations.ShiftsReportTheBitShiftedOut : Prop :=
  (∀ op, slice op 12 4 = 0x8 → slice op 0 4 = 0x6 → decode op = .instr (.shr (opX op) (opY op))) ∧
  (∀ op, slice op 12 4 = 0x8 → slice op 0 4 = 0xE → decode op = .instr (.shl (opX op) (opY op))) ∧
  ∀ (x y : RegIdx) (s : State) (v : Nat),
    v = (if s.cfg.shiftSrc = .vx then (s.readV x).toNat else (s.readV y).toNat) →
    (∃ t, exec (.shr x y) s = .next t ∧ (x ≠ vf → (t.readV x).toNat = v / 2) ∧ (t.readV vf).toNat = v % 2 ∧
      t.pc = normPc s.cfg (s.pc.toNat + 2) ∧
      UnchangedExcept (fun p => p = .v x ∨ p = .v vf ∨ p = .pc ∨ p = .event) s t) ∧
    (∃ t, exec (.shl x y) s = .next t ∧ (x ≠ vf → (t.readV x).toNat = v * 2 % 256) ∧ (t.readV vf).toNat = v / 128 ∧
      t.pc = normPc s.cfg (s.pc.toNat + 2) ∧
      UnchangedExcept (fun p => p = .v x ∨ p = .v vf ∨ p = .pc ∨ p = .event) s t)

/-- Cxkk masks the byte drawn, whatever it is, and the next Cxkk draws another (41_load_alu.md R133). That the draw is
indexed by a counter is the model's choice (log entry 2). -/
def Obligations.RandomByteIsMasked : Prop :=
  (∀ op, slice op 12 4 = 0xC → decode op = .instr (.rnd (opX op) (opKK op))) ∧
  ∀ (x : RegIdx) (kk : Byte) (s : State), ∃ t, exec (.rnd x kk) s = .next t ∧
    (∀ k < 8, (t.readV x).getLsbD k = ((Config.rndByte s.draws).getLsbD k && kk.getLsbD k)) ∧
    t.draws = s.draws + 1 ∧ t.pc = normPc s.cfg (s.pc.toNat + 2) ∧
    UnchangedExcept (fun p => p = .v x ∨ p = .draws ∨ p = .pc ∨ p = .event) s t

/-- 6xkk then 7xkk' (41_load_alu.md R135), and the boundary pairs of 8xy4 and 8xy5 (R136). -/
def Obligations.ArithmeticWrapsAtTheBoundary : Prop :=
  (∀ (x : RegIdx) (a b : Byte) (s t : State), exec (.ldImm x a) s = .next t →
    ∃ u, exec (.addImm x b) t = .next u ∧ (u.readV x).toNat = (a.toNat + b.toNat) % 256) ∧
  ∀ (x y : RegIdx) (s : State), x ≠ y → x ≠ vf → y ≠ vf →
    (s.readV x = 254 → s.readV y = 1 → ∃ t, exec (.addReg x y) s = .next t ∧ t.readV x = 255 ∧ t.readV vf = 0) ∧
    (s.readV x = 255 → s.readV y = 1 → ∃ t, exec (.addReg x y) s = .next t ∧ t.readV x = 0 ∧ t.readV vf = 1) ∧
    (s.readV x = 0 → s.readV y = 0 → ∃ t, exec (.sub x y) s = .next t ∧ t.readV x = 0 ∧ t.readV vf = 0) ∧
    (s.readV x = 0 → s.readV y = 1 → ∃ t, exec (.sub x y) s = .next t ∧ t.readV x = 255 ∧ t.readV vf = 0)

/-! ### The index register and memory -/

/-- Annn and Fx29 (42_index_memory.md R150, R152). -/
def Obligations.LoadIndexAndGlyphAddress : Prop :=
  (∀ op, slice op 12 4 = 0xA → decode op = .instr (.ldIdx (opNNN op))) ∧
  (∀ op, slice op 12 4 = 0xF → slice op 0 8 = 0x29 → decode op = .instr (.ldF (opX op))) ∧
  ∀ (nnn : Word) (x : RegIdx) (s : State),
    (∃ t, exec (.ldIdx nnn) s = .next t ∧ t.i = nnn ∧ t.pc = normPc s.cfg (s.pc.toNat + 2) ∧
      UnchangedExcept (fun p => p = .i ∨ p = .pc ∨ p = .event) s t) ∧
    (∃ t, exec (.ldF x) s = .next t ∧ t.i.toNat = (s.readV x).toNat * 5 ∧ t.pc = normPc s.cfg (s.pc.toNat + 2) ∧
      UnchangedExcept (fun p => p = .i ∨ p = .pc ∨ p = .event) s t)

/-- Fx1E keeps 12 bits under WRAP and 16 under FAULT, and VF always receives the overflow of 0xFFF
(42_index_memory.md R151). The width kept is the spec's decision D30 and the case x = F its decision D7 (log entry 13). -/
def Obligations.AddToIndexReportsOverflow : Prop :=
  (∀ op, slice op 12 4 = 0xF → slice op 0 8 = 0x1E → decode op = .instr (.addIdx (opX op))) ∧
  ∀ (x : RegIdx) (s : State), ∃ t, exec (.addIdx x) s = .next t ∧
    (s.cfg.addrMode = .wrap → t.i.toNat = (s.i.toNat + (s.readV x).toNat) % 4096) ∧
    (s.cfg.addrMode = .fault → t.i.toNat = (s.i.toNat + (s.readV x).toNat) % 65536) ∧
    (t.readV vf).toNat = (if s.i.toNat + (s.readV x).toNat > 0xFFF then 1 else 0) ∧
    t.pc = normPc s.cfg (s.pc.toNat + 2) ∧
    UnchangedExcept (fun p => p = .i ∨ p = .v vf ∨ p = .pc ∨ p = .event) s t

/-- Fx33 stores hundreds, tens and units at A(I), A(I + 1), A(I + 2) and nothing elsewhere, or raises with no effect
(42_index_memory.md R153). -/
def Obligations.DecimalDigitsAreStored : Prop :=
  (∀ op, slice op 12 4 = 0xF → slice op 0 8 = 0x33 → decode op = .instr (.ldB (opX op))) ∧
  ∀ (x : RegIdx) (s : State),
    (TransferInRange s.cfg s.i.toNat 3 → ∃ t, exec (.ldB x) s = .next t ∧
      (∀ a, AddressIs s.cfg s.i.toNat a → (t.readByte a).toNat = (s.readV x).toNat / 100) ∧
      (∀ a, AddressIs s.cfg (s.i.toNat + 1) a → (t.readByte a).toNat = (s.readV x).toNat / 10 % 10) ∧
      (∀ a, AddressIs s.cfg (s.i.toNat + 2) a → (t.readByte a).toNat = (s.readV x).toNat % 10) ∧
      (∀ a, OutsideTransfer s.cfg s.i.toNat 3 a → t.readByte a = s.readByte a) ∧
      t.pc = normPc s.cfg (s.pc.toNat + 2) ∧
      UnchangedExcept (fun p => (∃ a, p = .byte a) ∨ p = .pc ∨ p = .event) s t) ∧
    (s.cfg.addrMode = .fault → s.i.toNat + 2 > 0xFFF →
      exec (.ldB x) s = .next { s with event := .invalidAddress (if s.i.toNat > 0xFFF then s.i.toNat else 0x1000) })

/-- Fx55 stores V0 to Vx at A(I) to A(I + x) and nothing elsewhere, or raises with no effect (42_index_memory.md R154).
That I is unchanged the spec marks as its own inference (log entry 13). -/
def Obligations.RegistersAreStored : Prop :=
  (∀ op, slice op 12 4 = 0xF → slice op 0 8 = 0x55 → decode op = .instr (.stRegs (opX op))) ∧
  ∀ (x : RegIdx) (s : State),
    (TransferInRange s.cfg s.i.toNat (x.val + 1) → ∃ t, exec (.stRegs x) s = .next t ∧
      (∀ (r : RegIdx) (a : Nat), r ≤ x → AddressIs s.cfg (s.i.toNat + r.val) a → t.readByte a = s.readV r) ∧
      (∀ a, OutsideTransfer s.cfg s.i.toNat (x.val + 1) a → t.readByte a = s.readByte a) ∧
      t.pc = normPc s.cfg (s.pc.toNat + 2) ∧
      UnchangedExcept (fun p => (∃ a, p = .byte a) ∨ p = .pc ∨ p = .event) s t) ∧
    (s.cfg.addrMode = .fault → s.i.toNat + x.val > 0xFFF →
      exec (.stRegs x) s = .next { s with event := .invalidAddress (if s.i.toNat > 0xFFF then s.i.toNat else 0x1000) })

/-- Fx65 loads V0 to Vx from A(I) to A(I + x), I unchanged, or raises with no register written
(42_index_memory.md R155). -/
def Obligations.RegistersAreLoaded : Prop :=
  (∀ op, slice op 12 4 = 0xF → slice op 0 8 = 0x65 → decode op = .instr (.ldRegs (opX op))) ∧
  ∀ (x : RegIdx) (s : State),
    (TransferInRange s.cfg s.i.toNat (x.val + 1) → ∃ t, exec (.ldRegs x) s = .next t ∧
      (∀ (r : RegIdx) (a : Nat), r ≤ x → AddressIs s.cfg (s.i.toNat + r.val) a → t.readV r = s.readByte a) ∧
      t.pc = normPc s.cfg (s.pc.toNat + 2) ∧
      UnchangedExcept (fun p => (∃ r : RegIdx, r ≤ x ∧ p = .v r) ∨ p = .pc ∨ p = .event) s t) ∧
    (s.cfg.addrMode = .fault → s.i.toNat + x.val > 0xFFF →
      exec (.ldRegs x) s = .next { s with event := .invalidAddress (if s.i.toNat > 0xFFF then s.i.toNat else 0x1000) })

/-- The round trip of Fx55 and Fx65, with anything between that keeps I and the bytes stored
(42_index_memory.md R156). -/
def Obligations.StoreThenLoadRestoresRegisters : Prop :=
  ∀ (x : RegIdx) (s t u : State), s.i.toNat + x.val ≤ 0xFFF → exec (.stRegs x) s = .next t →
    u.cfg = t.cfg → u.i = t.i → (∀ k ≤ x.val, u.readByte (s.i.toNat + k) = t.readByte (s.i.toNat + k)) →
    ∃ w, exec (.ldRegs x) u = .next w ∧ ∀ r : RegIdx, r ≤ x → w.readV r = s.readV r

/-- A store is seen by the very next fetch that reads it (20_memory.md R63; 70_reset_and_hazards.md R251). -/
def Obligations.StoredCodeIsFetchedAtOnce : Prop :=
  ∀ (x q r : RegIdx) (s t : State) (a b : Nat), exec (.stRegs x) s = .next t → t.event = .evNone →
    q.val + 1 = r.val → r ≤ x →
    AddressIs s.cfg (s.i.toNat + q.val) a → AddressIs s.cfg (s.i.toNat + r.val) b →
    AddressIs s.cfg t.pc.toNat a → AddressIs s.cfg (t.pc.toNat + 1) b →
    fetch t = .ok (wordOfBytes (s.readV q) (s.readV r))

/-- The memory component's own ports (20_memory.md R55): in 0 to 4095 a write is read back and touches no other byte;
outside both fail, and nothing changes. -/
def Obligations.MemoryPortsReadBackAndRejectOutside : Prop :=
  ∀ (s : State) (a : Nat) (b : Byte),
    (a ≤ 4095 → memRead s a = .ok (s.readByte a) ∧ ∃ t, memWrite s a b = .ok t ∧ memRead t a = .ok b ∧
      (∀ c, c ≠ a → t.readByte c = s.readByte c) ∧ UnchangedExcept (fun p => p = .byte a) s t) ∧
    (a > 4095 → memRead s a = .error (.invalidAddress a) ∧ memWrite s a b = .error (.invalidAddress a) ∧
      s.writeByte a b = s)

/-! ### The display -/

/-- 00E0 CLS (43_display.md R170). -/
def Obligations.ClearScreenAsksForRedraw : Prop :=
  (∀ op, decode op = .instr .cls ↔ op = 0x00E0) ∧
  ∀ s : State, ∃ t, exec .cls s = .next t ∧
    (∀ cx cy, Grid.get t.fb cx cy = false ∧ Grid.get t.dirty cx cy = false) ∧ t.fullRedraw = true ∧
    t.pc = normPc s.cfg (s.pc.toNat + 2) ∧
    UnchangedExcept
      (fun p => (∃ cx cy, p = .pixel cx cy ∨ p = .dirty cx cy) ∨ p = .fullRedraw ∨ p = .pc ∨ p = .event) s t

/-- Dxyn XORs the sprite into the screen cell by cell, marks the cells it covers, and sets VF exactly on a collision
(43_display.md R171 to R176). VF = 0, the case n = 0, the bit order, the clipping and the dirty mark are the spec's
decisions D10 to D14 (log entry 13). -/
def Obligations.DrawXorsTheSprite : Prop :=
  (∀ op, slice op 12 4 = 0xD → decode op = .instr (.drw (opX op) (opY op) (opN op))) ∧
  ∀ (x y : RegIdx) (n : Nat) (s : State), TransferInRange s.cfg s.i.toNat n →
    ∃ rows t, SpriteRows s n rows ∧ exec (.drw x y n) s = .next t ∧
      (∀ cx cy, OnScreen cx cy →
        Grid.get t.fb cx cy =
          (Grid.get s.fb cx cy != spriteCovers rows (s.readV x).toNat (s.readV y).toNat cx cy) ∧
        Grid.get t.dirty cx cy =
          if spriteCovers rows (s.readV x).toNat (s.readV y).toNat cx cy then
            (if s.cfg.dirtyUpdate = .set then true else !Grid.get s.dirty cx cy)
          else Grid.get s.dirty cx cy) ∧
      (Collides s.fb rows (s.readV x).toNat (s.readV y).toNat → t.readV vf = 1) ∧
      (¬ Collides s.fb rows (s.readV x).toNat (s.readV y).toNat → t.readV vf = 0) ∧
      t.pc = normPc s.cfg (s.pc.toNat + 2) ∧
      UnchangedExcept
        (fun p => (∃ cx cy, p = .pixel cx cy ∨ p = .dirty cx cy) ∨ p = .v vf ∨ p = .pc ∨ p = .event) s t

/-- Dxyn with a sprite address above 0xFFF: under FAULT it raises for the first such row and changes nothing, under WRAP
it draws rows that past 0xFFF are read from 0x000 on (43_display.md R177). -/
def Obligations.DrawChecksEveryAddressFirst : Prop :=
  ∀ (x y : RegIdx) (n : Nat) (s : State),
    (s.cfg.addrMode = .fault → ∀ r < n, s.i.toNat + r > 0xFFF → (∀ q < r, s.i.toNat + q ≤ 0xFFF) →
      exec (.drw x y n) s = .next { s with event := .invalidAddress (s.i.toNat + r) }) ∧
    (s.cfg.addrMode = .wrap → ∃ rows t, rows.length = n ∧
      (∀ r < n, rows[r]? = some (s.readByte ((s.i.toNat + r) % 4096))) ∧
      exec (.drw x y n) s = .next t ∧ t.fb = (s.drawing (s.readV x).toNat (s.readV y).toNat rows).fb)

/-- The XOR law (43_display.md R178): the second of two draws of one sprite at one place restores the pixels, and it
collides exactly when some set bit of the sprite fell on a pixel that was off. That VF is 0 otherwise is the spec's
decision D10, and where a set bit falls its decisions D12 and D13 (log entry 13). -/
def Obligations.DrawingTwiceRestoresThePixels : Prop :=
  ∀ (x y x' y' : RegIdx) (n : Nat) (rows : List Byte) (s t u w : State),
    SpriteRows s n rows → SpriteRows u n rows → u.readV x' = s.readV x → u.readV y' = s.readV y →
    exec (.drw x y n) s = .next t → u.fb = t.fb → u.cfg = s.cfg →
    exec (.drw x' y' n) u = .next w →
    let covers := spriteCovers rows (s.readV x).toNat (s.readV y).toNat
    w.fb = s.fb ∧
    (w.readV vf = 1 ↔ ∃ cx cy, OnScreen cx cy ∧ covers cx cy = true ∧ Grid.get s.fb cx cy = false) ∧
    ((∀ cx cy, OnScreen cx cy → covers cx cy = true → Grid.get s.fb cx cy = true) →
      (∃ cx cy, OnScreen cx cy ∧ covers cx cy = true) → t.readV vf = 1 ∧ w.readV vf = 0) ∧
    (s.cfg.dirtyUpdate = .toggle → u.dirty = t.dirty → w.dirty = s.dirty) ∧
    (s.cfg.dirtyUpdate = .set → ∀ cx cy, OnScreen cx cy → covers cx cy = true → Grid.get w.dirty cx cy = true)

/-- The first draw after 00E0 does not collide and turns on exactly the sprite's cells on the screen
(43_display.md R179). VF = 0 is the spec's decision D10, and where a set bit falls its decisions D12 and D13 (log entry
13). -/
def Obligations.FirstDrawAfterClearDoesNotCollide : Prop :=
  ∀ (x y : RegIdx) (n : Nat) (rows : List Byte) (s t u w : State),
    exec .cls s = .next t → u.fb = t.fb → SpriteRows u n rows → exec (.drw x y n) u = .next w →
    w.readV vf = 0 ∧ ∀ cx cy, OnScreen cx cy →
      Grid.get w.fb cx cy = spriteCovers rows (u.readV x).toNat (u.readV y).toNat cx cy

/-- The renderer's port (43_display.md R180, R181). -/
def Obligations.RendererPortReadsAndClears : Prop :=
  ∀ (s : State) (x y : Int),
    (0 ≤ x → x < 64 → 0 ≤ y → y < 32 →
      transact (.fbRead x y) s = .next (s, .cell (Grid.get s.fb x.toNat y.toNat) (Grid.get s.dirty x.toNat y.toNat)) ∧
      ∃ t, transact (.fbClearDirty x y) s = .next (t, .done) ∧ Grid.get t.dirty x.toNat y.toNat = false ∧
        UnchangedExcept (fun p => p = .dirty x.toNat y.toNat) s t) ∧
    (¬ (0 ≤ x ∧ x < 64 ∧ 0 ≤ y ∧ y < 32) →
      transact (.fbRead x y) s = .next (s, .cell false false) ∧
      transact (.fbClearDirty x y) s = .next (s, .done)) ∧
    transact .fbReadFullRedraw s = .next (s, .bit s.fullRedraw) ∧
    transact .fbClearFullRedraw s = .next ({ s with fullRedraw := false }, .done)

/-- No sequence of renderer operations changes anything but DIRTY and FULL_REDRAW (43_display.md R183). -/
def Obligations.RendererOnlyClearsItsFlags : Prop :=
  ∀ (ops : List IfaceOp) (s : State), (∀ op ∈ ops, op.isRenderer = true) →
    ∃ t rs, transactAll ops s = .next (t, rs) ∧ t = { s with dirty := t.dirty, fullRedraw := t.fullRedraw } ∧
      (∀ cx cy, Grid.get t.dirty cx cy = true → Grid.get s.dirty cx cy = true) ∧
      (t.fullRedraw = true → s.fullRedraw = true)

/-! ### Timers and keys -/

/-- Fx07, Fx15 and Fx18; a tick that executes Fx07 under COUPLED reads DT already lowered
(44_timers_keys.md R194, R195, R196). -/
def Obligations.TimerInstructionsMoveTheTimers : Prop :=
  (∀ op, slice op 12 4 = 0xF → slice op 0 8 = 0x07 → decode op = .instr (.ldVDt (opX op))) ∧
  (∀ op, slice op 12 4 = 0xF → slice op 0 8 = 0x15 → decode op = .instr (.ldDtV (opX op))) ∧
  (∀ op, slice op 12 4 = 0xF → slice op 0 8 = 0x18 → decode op = .instr (.ldStV (opX op))) ∧
  ∀ (x : RegIdx) (s : State),
    (∃ t, exec (.ldVDt x) s = .next t ∧ t.readV x = s.dt ∧ t.pc = normPc s.cfg (s.pc.toNat + 2) ∧
      UnchangedExcept (fun p => p = .v x ∨ p = .pc ∨ p = .event) s t) ∧
    (∃ t, exec (.ldDtV x) s = .next t ∧ t.dt = s.readV x ∧ t.pc = normPc s.cfg (s.pc.toNat + 2) ∧
      UnchangedExcept (fun p => p = .dt ∨ p = .pc ∨ p = .event) s t) ∧
    (∃ t, exec (.ldStV x) s = .next t ∧ t.st = s.readV x ∧ soundActive t = decide ((s.readV x).toNat ≠ 0) ∧
      t.pc = normPc s.cfg (s.pc.toNat + 2) ∧ UnchangedExcept (fun p => p = .st ∨ p = .pc ∨ p = .event) s t) ∧
    (TickExecutes s (.ldVDt x) → s.cfg.timerMode = .coupled →
      ∃ t, step s = .next t ∧ (t.readV x).toNat = s.dt.toNat - 1 ∧ t.dt = t.readV x) ∧
    (TickExecutes s (.ldDtV x) → ∃ t, step s = .next t ∧ t.dt = s.readV x)

/-- Ex9E and ExA1 (44_timers_keys.md R197, R198). That the key index is V[x] mod 16 under MASK, and V[x] or a raise above
15 under FAULT, is R200, the spec's decision D18 (log entry 13). -/
def Obligations.KeySkipsTestTheKey : Prop :=
  (∀ op, slice op 12 4 = 0xE → slice op 0 8 = 0x9E → decode op = .instr (.skp (opX op))) ∧
  (∀ op, slice op 12 4 = 0xE → slice op 0 8 = 0xA1 → decode op = .instr (.sknp (opX op))) ∧
  ∀ (x : RegIdx) (s : State) (k : Nat),
    (s.cfg.keyIndexMode = .mask → k = (s.readV x).toNat % 16 →
      (∃ t, exec (.skp x) s = .next t ∧ t.pc = normPc s.cfg (s.pc.toNat + if s.key k then 4 else 2) ∧
        UnchangedExcept (fun p => p = .pc ∨ p = .event) s t) ∧
      (∃ t, exec (.sknp x) s = .next t ∧ t.pc = normPc s.cfg (s.pc.toNat + if s.key k then 2 else 4) ∧
        UnchangedExcept (fun p => p = .pc ∨ p = .event) s t)) ∧
    (s.cfg.keyIndexMode = .fault → k = (s.readV x).toNat → k ≤ 15 →
      (∃ t, exec (.skp x) s = .next t ∧ t.pc = normPc s.cfg (s.pc.toNat + if s.key k then 4 else 2) ∧
        UnchangedExcept (fun p => p = .pc ∨ p = .event) s t) ∧
      (∃ t, exec (.sknp x) s = .next t ∧ t.pc = normPc s.cfg (s.pc.toNat + if s.key k then 2 else 4) ∧
        UnchangedExcept (fun p => p = .pc ∨ p = .event) s t)) ∧
    (s.cfg.keyIndexMode = .fault → (s.readV x).toNat > 15 →
      exec (.skp x) s = .next { s with event := .invalidIndex (s.readV x) } ∧
      exec (.sknp x) s = .next { s with event := .invalidIndex (s.readV x) })

/-- Fx0A captures the lowest held key of 0 to FX0A_KEY_MAX, or waits with no effect and is retried
(44_timers_keys.md R199). The range, that it is polled by level, and the event are the spec's decisions D17 and D22 (log
entry 13). -/
def Obligations.WaitForKeyCapturesTheLowest : Prop :=
  (∀ op, slice op 12 4 = 0xF → slice op 0 8 = 0x0A → decode op = .instr (.ldK (opX op))) ∧
  ∀ (x : RegIdx) (s : State),
    ((∀ k ≤ s.cfg.fx0aKeyMax.val, s.key k = false) → exec (.ldK x) s = .next { s with event := .keyWait x }) ∧
    (∀ k, k ≤ s.cfg.fx0aKeyMax.val → s.key k = true → (∀ j < k, s.key j = false) →
      ∃ t, exec (.ldK x) s = .next t ∧ (t.readV x).toNat = k ∧ t.pc = normPc s.cfg (s.pc.toNat + 2) ∧
        UnchangedExcept (fun p => p = .v x ∨ p = .pc ∨ p = .event) s t)

/-- The host's keypad port, in every run state (44_timers_keys.md R204). The result for an index out of range is the
spec's decision D31 (log entry 13). -/
def Obligations.KeypadPortSetsOneKey : Prop :=
  ∀ (s : State) (k : Int),
    (0 ≤ k → k ≤ 15 →
      (∃ t, transact (.keyPress k) s = .next (t, .ok) ∧ t.key k.toNat = true ∧
        UnchangedExcept (fun p => p = .key k.toNat) s t) ∧
      (∃ t, transact (.keyRelease k) s = .next (t, .ok) ∧ t.key k.toNat = false ∧
        UnchangedExcept (fun p => p = .key k.toNat) s t) ∧
      transact (.keyQuery k) s = .next (s, .bit (s.key k.toNat))) ∧
    (k < 0 ∨ 15 < k →
      transact (.keyPress k) s = .next (s, .keyInvalidIndex) ∧
      transact (.keyRelease k) s = .next (s, .keyInvalidIndex) ∧
      transact (.keyQuery k) s = .next (s, .keyInvalidIndex))

/-! ### The whole machine -/

/-- The write columns of the access matrix (10_state.md R40): no instruction writes anything else. -/
def Obligations.InstructionsWriteOnlyTheirState : Prop :=
  ∀ (i : Instr) (s t : State), exec i s = .next t → UnchangedExcept (mayWrite i s) s t

/-- PC after every instruction (10_state.md R25). -/
def Obligations.PcAfterEveryInstruction : Prop :=
  ∀ (i : Instr) (s t : State), exec i s = .next t →
    (t.event = .evNone → t.pc = pcAfter i s) ∧
    (t.event ≠ .evNone →
      t.pc = s.pc ∨ ∃ nnn, i = .call nnn ∧ s.cfg.callOverflow = .jumpNoPush ∧ t.pc = normPc s.cfg nnn.toNat)

/-- Which event every instruction reports (60_exceptions.md R210). The codes and infos are the spec's decision D22 (log
entry 13), and the port they stand on is the model's (log entry 3). -/
def Obligations.EventOfEveryInstruction : Prop :=
  ∀ (i : Instr) (s t : State), exec i s = .next t → t.event = expectedEvent i s

/-- Every error that raises is precise: the state after the tick is the state before it with only the timer decrement
applied (60_exceptions.md R213; the spec's decision D23, log entry 13). The one event that commits is EV_STACK_OVERFLOW
under JUMP_NO_PUSH (R212). -/
def Obligations.RaisingTickChangesNothing : Prop :=
  ∀ s t : State, step s = .next t → t.event ≠ .evNone →
    t = { tickTimers s with event := t.event } ∨
    ∃ nnn, TickExecutes s (.call nnn) ∧ s.cfg.callOverflow = .jumpNoPush ∧ s.sp.toNat = 16 ∧
      t = { tickTimers s with event := .stackOverflow s.pc, pc := normPc s.cfg nnn.toNat }

/-- A program cannot observe DIRTY, FULL_REDRAW, ST, SPEED or the event port: ticks of two states that differ only there
go on differing only there, and report the same event (10_state.md R28, R31, R32, R35, R39; 60_exceptions.md R210). That
the two draw the same byte, because their draw counts are equal, is the model's choice (log entry 2); two devices need not.
-/
def Obligations.ProgramCannotObserveTheRenderersState : Prop :=
  ∀ s t s' : State, SameForProgram s t → step s = .next s' →
    ∃ t', step t = .next t' ∧ SameForProgram s' t' ∧ t'.event = s'.event

/-- The invariant holds in the state after RESET, for all parameters. -/
def Obligations.InvariantHoldsAtReset : Prop :=
  State.reset.Inv ∧ ∀ cfg : Config, (State.init cfg).Inv

/-- Every step keeps the invariant: canonical memory, at most 16 stack entries (10_state.md R26), and under WRAP PC, I and
the occupied stack entries are addresses of memory (R23, R24, R27). -/
def Obligations.EveryStepKeepsTheInvariant : Prop :=
  ∀ s t : State, s.Inv → step s = .next t → t.Inv

/-- From a state of the invariant, any sequence of interface operations completes, whatever errors its ticks report,
keeps the invariant and leaves the parameters alone (00_scope.md R6; 60_exceptions.md R212; 70_reset_and_hazards.md
R262). -/
def Obligations.EveryOperationSequenceCompletes : Prop :=
  ∀ (ops : List IfaceOp) (s : State), s.Inv →
    ∃ t rs, transactAll ops s = .next (t, rs) ∧ t.Inv ∧ t.cfg = s.cfg ∧ rs.length = ops.length
end

