-- ==== Sys2Proof/Laws/State.lean ====
section
/-! SUPPORT. One lemma for each field of State and each of its updates, so that no proof unfolds a record update. -/

namespace Sys2Proof.Machine

/-! ### State.init -/

/-- SPEED before the first SET_SPEED is a positive interval, for any parameters (00_scope.md R8). -/
theorem State.init_speed_pos (cfg : Config) : 0 < (State.init cfg).speed := cfg.speedMs.property

/-! ### State.writeV -/

@[simp] theorem State.writeV_cfg (s : State) (r : RegIdx) (b : Byte) : (s.writeV r b).cfg = s.cfg := rfl
@[simp] theorem State.writeV_v (s : State) (r : RegIdx) (b : Byte) : (s.writeV r b).v = s.v.set r b := rfl
@[simp] theorem State.writeV_i (s : State) (r : RegIdx) (b : Byte) : (s.writeV r b).i = s.i := rfl
@[simp] theorem State.writeV_pc (s : State) (r : RegIdx) (b : Byte) : (s.writeV r b).pc = s.pc := rfl
@[simp] theorem State.writeV_sp (s : State) (r : RegIdx) (b : Byte) : (s.writeV r b).sp = s.sp := rfl
@[simp] theorem State.writeV_stack (s : State) (r : RegIdx) (b : Byte) : (s.writeV r b).stack = s.stack := rfl
@[simp] theorem State.writeV_dt (s : State) (r : RegIdx) (b : Byte) : (s.writeV r b).dt = s.dt := rfl
@[simp] theorem State.writeV_st (s : State) (r : RegIdx) (b : Byte) : (s.writeV r b).st = s.st := rfl
@[simp] theorem State.writeV_mem (s : State) (r : RegIdx) (b : Byte) : (s.writeV r b).mem = s.mem := rfl
@[simp] theorem State.writeV_fb (s : State) (r : RegIdx) (b : Byte) : (s.writeV r b).fb = s.fb := rfl
@[simp] theorem State.writeV_dirty (s : State) (r : RegIdx) (b : Byte) : (s.writeV r b).dirty = s.dirty := rfl
@[simp] theorem State.writeV_fullRedraw (s : State) (r : RegIdx) (b : Byte) : (s.writeV r b).fullRedraw = s.fullRedraw := rfl
@[simp] theorem State.writeV_keys (s : State) (r : RegIdx) (b : Byte) : (s.writeV r b).keys = s.keys := rfl
@[simp] theorem State.writeV_run (s : State) (r : RegIdx) (b : Byte) : (s.writeV r b).run = s.run := rfl
@[simp] theorem State.writeV_speed (s : State) (r : RegIdx) (b : Byte) : (s.writeV r b).speed = s.speed := rfl
@[simp] theorem State.writeV_event (s : State) (r : RegIdx) (b : Byte) : (s.writeV r b).event = s.event := rfl
@[simp] theorem State.writeV_draws (s : State) (r : RegIdx) (b : Byte) : (s.writeV r b).draws = s.draws := rfl

/-! ### State.setI -/

@[simp] theorem State.setI_cfg (s : State) (w : Word) : (s.setI w).cfg = s.cfg := rfl
@[simp] theorem State.setI_v (s : State) (w : Word) : (s.setI w).v = s.v := rfl
@[simp] theorem State.setI_i (s : State) (w : Word) : (s.setI w).i = w := rfl
@[simp] theorem State.setI_pc (s : State) (w : Word) : (s.setI w).pc = s.pc := rfl
@[simp] theorem State.setI_sp (s : State) (w : Word) : (s.setI w).sp = s.sp := rfl
@[simp] theorem State.setI_stack (s : State) (w : Word) : (s.setI w).stack = s.stack := rfl
@[simp] theorem State.setI_dt (s : State) (w : Word) : (s.setI w).dt = s.dt := rfl
@[simp] theorem State.setI_st (s : State) (w : Word) : (s.setI w).st = s.st := rfl
@[simp] theorem State.setI_mem (s : State) (w : Word) : (s.setI w).mem = s.mem := rfl
@[simp] theorem State.setI_fb (s : State) (w : Word) : (s.setI w).fb = s.fb := rfl
@[simp] theorem State.setI_dirty (s : State) (w : Word) : (s.setI w).dirty = s.dirty := rfl
@[simp] theorem State.setI_fullRedraw (s : State) (w : Word) : (s.setI w).fullRedraw = s.fullRedraw := rfl
@[simp] theorem State.setI_keys (s : State) (w : Word) : (s.setI w).keys = s.keys := rfl
@[simp] theorem State.setI_run (s : State) (w : Word) : (s.setI w).run = s.run := rfl
@[simp] theorem State.setI_speed (s : State) (w : Word) : (s.setI w).speed = s.speed := rfl
@[simp] theorem State.setI_event (s : State) (w : Word) : (s.setI w).event = s.event := rfl
@[simp] theorem State.setI_draws (s : State) (w : Word) : (s.setI w).draws = s.draws := rfl

/-! ### State.setDt -/

@[simp] theorem State.setDt_cfg (s : State) (b : Byte) : (s.setDt b).cfg = s.cfg := rfl
@[simp] theorem State.setDt_v (s : State) (b : Byte) : (s.setDt b).v = s.v := rfl
@[simp] theorem State.setDt_i (s : State) (b : Byte) : (s.setDt b).i = s.i := rfl
@[simp] theorem State.setDt_pc (s : State) (b : Byte) : (s.setDt b).pc = s.pc := rfl
@[simp] theorem State.setDt_sp (s : State) (b : Byte) : (s.setDt b).sp = s.sp := rfl
@[simp] theorem State.setDt_stack (s : State) (b : Byte) : (s.setDt b).stack = s.stack := rfl
@[simp] theorem State.setDt_dt (s : State) (b : Byte) : (s.setDt b).dt = b := rfl
@[simp] theorem State.setDt_st (s : State) (b : Byte) : (s.setDt b).st = s.st := rfl
@[simp] theorem State.setDt_mem (s : State) (b : Byte) : (s.setDt b).mem = s.mem := rfl
@[simp] theorem State.setDt_fb (s : State) (b : Byte) : (s.setDt b).fb = s.fb := rfl
@[simp] theorem State.setDt_dirty (s : State) (b : Byte) : (s.setDt b).dirty = s.dirty := rfl
@[simp] theorem State.setDt_fullRedraw (s : State) (b : Byte) : (s.setDt b).fullRedraw = s.fullRedraw := rfl
@[simp] theorem State.setDt_keys (s : State) (b : Byte) : (s.setDt b).keys = s.keys := rfl
@[simp] theorem State.setDt_run (s : State) (b : Byte) : (s.setDt b).run = s.run := rfl
@[simp] theorem State.setDt_speed (s : State) (b : Byte) : (s.setDt b).speed = s.speed := rfl
@[simp] theorem State.setDt_event (s : State) (b : Byte) : (s.setDt b).event = s.event := rfl
@[simp] theorem State.setDt_draws (s : State) (b : Byte) : (s.setDt b).draws = s.draws := rfl

/-! ### State.setSt -/

@[simp] theorem State.setSt_cfg (s : State) (b : Byte) : (s.setSt b).cfg = s.cfg := rfl
@[simp] theorem State.setSt_v (s : State) (b : Byte) : (s.setSt b).v = s.v := rfl
@[simp] theorem State.setSt_i (s : State) (b : Byte) : (s.setSt b).i = s.i := rfl
@[simp] theorem State.setSt_pc (s : State) (b : Byte) : (s.setSt b).pc = s.pc := rfl
@[simp] theorem State.setSt_sp (s : State) (b : Byte) : (s.setSt b).sp = s.sp := rfl
@[simp] theorem State.setSt_stack (s : State) (b : Byte) : (s.setSt b).stack = s.stack := rfl
@[simp] theorem State.setSt_dt (s : State) (b : Byte) : (s.setSt b).dt = s.dt := rfl
@[simp] theorem State.setSt_st (s : State) (b : Byte) : (s.setSt b).st = b := rfl
@[simp] theorem State.setSt_mem (s : State) (b : Byte) : (s.setSt b).mem = s.mem := rfl
@[simp] theorem State.setSt_fb (s : State) (b : Byte) : (s.setSt b).fb = s.fb := rfl
@[simp] theorem State.setSt_dirty (s : State) (b : Byte) : (s.setSt b).dirty = s.dirty := rfl
@[simp] theorem State.setSt_fullRedraw (s : State) (b : Byte) : (s.setSt b).fullRedraw = s.fullRedraw := rfl
@[simp] theorem State.setSt_keys (s : State) (b : Byte) : (s.setSt b).keys = s.keys := rfl
@[simp] theorem State.setSt_run (s : State) (b : Byte) : (s.setSt b).run = s.run := rfl
@[simp] theorem State.setSt_speed (s : State) (b : Byte) : (s.setSt b).speed = s.speed := rfl
@[simp] theorem State.setSt_event (s : State) (b : Byte) : (s.setSt b).event = s.event := rfl
@[simp] theorem State.setSt_draws (s : State) (b : Byte) : (s.setSt b).draws = s.draws := rfl

/-! ### State.setEvent -/

@[simp] theorem State.setEvent_cfg (s : State) (e : Event) : (s.setEvent e).cfg = s.cfg := rfl
@[simp] theorem State.setEvent_v (s : State) (e : Event) : (s.setEvent e).v = s.v := rfl
@[simp] theorem State.setEvent_i (s : State) (e : Event) : (s.setEvent e).i = s.i := rfl
@[simp] theorem State.setEvent_pc (s : State) (e : Event) : (s.setEvent e).pc = s.pc := rfl
@[simp] theorem State.setEvent_sp (s : State) (e : Event) : (s.setEvent e).sp = s.sp := rfl
@[simp] theorem State.setEvent_stack (s : State) (e : Event) : (s.setEvent e).stack = s.stack := rfl
@[simp] theorem State.setEvent_dt (s : State) (e : Event) : (s.setEvent e).dt = s.dt := rfl
@[simp] theorem State.setEvent_st (s : State) (e : Event) : (s.setEvent e).st = s.st := rfl
@[simp] theorem State.setEvent_mem (s : State) (e : Event) : (s.setEvent e).mem = s.mem := rfl
@[simp] theorem State.setEvent_fb (s : State) (e : Event) : (s.setEvent e).fb = s.fb := rfl
@[simp] theorem State.setEvent_dirty (s : State) (e : Event) : (s.setEvent e).dirty = s.dirty := rfl
@[simp] theorem State.setEvent_fullRedraw (s : State) (e : Event) : (s.setEvent e).fullRedraw = s.fullRedraw := rfl
@[simp] theorem State.setEvent_keys (s : State) (e : Event) : (s.setEvent e).keys = s.keys := rfl
@[simp] theorem State.setEvent_run (s : State) (e : Event) : (s.setEvent e).run = s.run := rfl
@[simp] theorem State.setEvent_speed (s : State) (e : Event) : (s.setEvent e).speed = s.speed := rfl
@[simp] theorem State.setEvent_event (s : State) (e : Event) : (s.setEvent e).event = e := rfl
@[simp] theorem State.setEvent_draws (s : State) (e : Event) : (s.setEvent e).draws = s.draws := rfl

/-! ### State.jump -/

@[simp] theorem State.jump_cfg (s : State) (n : Nat) : (s.jump n).cfg = s.cfg := rfl
@[simp] theorem State.jump_v (s : State) (n : Nat) : (s.jump n).v = s.v := rfl
@[simp] theorem State.jump_i (s : State) (n : Nat) : (s.jump n).i = s.i := rfl
@[simp] theorem State.jump_pc (s : State) (n : Nat) : (s.jump n).pc = normPc s.cfg n := rfl
@[simp] theorem State.jump_sp (s : State) (n : Nat) : (s.jump n).sp = s.sp := rfl
@[simp] theorem State.jump_stack (s : State) (n : Nat) : (s.jump n).stack = s.stack := rfl
@[simp] theorem State.jump_dt (s : State) (n : Nat) : (s.jump n).dt = s.dt := rfl
@[simp] theorem State.jump_st (s : State) (n : Nat) : (s.jump n).st = s.st := rfl
@[simp] theorem State.jump_mem (s : State) (n : Nat) : (s.jump n).mem = s.mem := rfl
@[simp] theorem State.jump_fb (s : State) (n : Nat) : (s.jump n).fb = s.fb := rfl
@[simp] theorem State.jump_dirty (s : State) (n : Nat) : (s.jump n).dirty = s.dirty := rfl
@[simp] theorem State.jump_fullRedraw (s : State) (n : Nat) : (s.jump n).fullRedraw = s.fullRedraw := rfl
@[simp] theorem State.jump_keys (s : State) (n : Nat) : (s.jump n).keys = s.keys := rfl
@[simp] theorem State.jump_run (s : State) (n : Nat) : (s.jump n).run = s.run := rfl
@[simp] theorem State.jump_speed (s : State) (n : Nat) : (s.jump n).speed = s.speed := rfl
@[simp] theorem State.jump_event (s : State) (n : Nat) : (s.jump n).event = s.event := rfl
@[simp] theorem State.jump_draws (s : State) (n : Nat) : (s.jump n).draws = s.draws := rfl

/-! ### State.advance -/

@[simp] theorem State.advance_cfg (s : State) : (s.advance).cfg = s.cfg := rfl
@[simp] theorem State.advance_v (s : State) : (s.advance).v = s.v := rfl
@[simp] theorem State.advance_i (s : State) : (s.advance).i = s.i := rfl
@[simp] theorem State.advance_pc (s : State) : (s.advance).pc = normPc s.cfg (s.pc.toNat + 2) := rfl
@[simp] theorem State.advance_sp (s : State) : (s.advance).sp = s.sp := rfl
@[simp] theorem State.advance_stack (s : State) : (s.advance).stack = s.stack := rfl
@[simp] theorem State.advance_dt (s : State) : (s.advance).dt = s.dt := rfl
@[simp] theorem State.advance_st (s : State) : (s.advance).st = s.st := rfl
@[simp] theorem State.advance_mem (s : State) : (s.advance).mem = s.mem := rfl
@[simp] theorem State.advance_fb (s : State) : (s.advance).fb = s.fb := rfl
@[simp] theorem State.advance_dirty (s : State) : (s.advance).dirty = s.dirty := rfl
@[simp] theorem State.advance_fullRedraw (s : State) : (s.advance).fullRedraw = s.fullRedraw := rfl
@[simp] theorem State.advance_keys (s : State) : (s.advance).keys = s.keys := rfl
@[simp] theorem State.advance_run (s : State) : (s.advance).run = s.run := rfl
@[simp] theorem State.advance_speed (s : State) : (s.advance).speed = s.speed := rfl
@[simp] theorem State.advance_event (s : State) : (s.advance).event = s.event := rfl
@[simp] theorem State.advance_draws (s : State) : (s.advance).draws = s.draws := rfl

/-! ### State.push -/

@[simp] theorem State.push_cfg (s : State) (w : Word) : (s.push w).cfg = s.cfg := rfl
@[simp] theorem State.push_v (s : State) (w : Word) : (s.push w).v = s.v := rfl
@[simp] theorem State.push_i (s : State) (w : Word) : (s.push w).i = s.i := rfl
@[simp] theorem State.push_pc (s : State) (w : Word) : (s.push w).pc = s.pc := rfl
@[simp] theorem State.push_sp (s : State) (w : Word) : (s.push w).sp = BitVec.ofNat 16 (s.sp.toNat + 1) := rfl
@[simp] theorem State.push_stack (s : State) (w : Word) : (s.push w).stack = s.stack.setIfInBounds s.sp.toNat w := rfl
@[simp] theorem State.push_dt (s : State) (w : Word) : (s.push w).dt = s.dt := rfl
@[simp] theorem State.push_st (s : State) (w : Word) : (s.push w).st = s.st := rfl
@[simp] theorem State.push_mem (s : State) (w : Word) : (s.push w).mem = s.mem := rfl
@[simp] theorem State.push_fb (s : State) (w : Word) : (s.push w).fb = s.fb := rfl
@[simp] theorem State.push_dirty (s : State) (w : Word) : (s.push w).dirty = s.dirty := rfl
@[simp] theorem State.push_fullRedraw (s : State) (w : Word) : (s.push w).fullRedraw = s.fullRedraw := rfl
@[simp] theorem State.push_keys (s : State) (w : Word) : (s.push w).keys = s.keys := rfl
@[simp] theorem State.push_run (s : State) (w : Word) : (s.push w).run = s.run := rfl
@[simp] theorem State.push_speed (s : State) (w : Word) : (s.push w).speed = s.speed := rfl
@[simp] theorem State.push_event (s : State) (w : Word) : (s.push w).event = s.event := rfl
@[simp] theorem State.push_draws (s : State) (w : Word) : (s.push w).draws = s.draws := rfl

/-! ### State.dropTop -/

@[simp] theorem State.dropTop_cfg (s : State) : (s.dropTop).cfg = s.cfg := rfl
@[simp] theorem State.dropTop_v (s : State) : (s.dropTop).v = s.v := rfl
@[simp] theorem State.dropTop_i (s : State) : (s.dropTop).i = s.i := rfl
@[simp] theorem State.dropTop_pc (s : State) : (s.dropTop).pc = s.pc := rfl
@[simp] theorem State.dropTop_sp (s : State) : (s.dropTop).sp = BitVec.ofNat 16 (s.sp.toNat - 1) := rfl
@[simp] theorem State.dropTop_stack (s : State) : (s.dropTop).stack = s.stack := rfl
@[simp] theorem State.dropTop_dt (s : State) : (s.dropTop).dt = s.dt := rfl
@[simp] theorem State.dropTop_st (s : State) : (s.dropTop).st = s.st := rfl
@[simp] theorem State.dropTop_mem (s : State) : (s.dropTop).mem = s.mem := rfl
@[simp] theorem State.dropTop_fb (s : State) : (s.dropTop).fb = s.fb := rfl
@[simp] theorem State.dropTop_dirty (s : State) : (s.dropTop).dirty = s.dirty := rfl
@[simp] theorem State.dropTop_fullRedraw (s : State) : (s.dropTop).fullRedraw = s.fullRedraw := rfl
@[simp] theorem State.dropTop_keys (s : State) : (s.dropTop).keys = s.keys := rfl
@[simp] theorem State.dropTop_run (s : State) : (s.dropTop).run = s.run := rfl
@[simp] theorem State.dropTop_speed (s : State) : (s.dropTop).speed = s.speed := rfl
@[simp] theorem State.dropTop_event (s : State) : (s.dropTop).event = s.event := rfl
@[simp] theorem State.dropTop_draws (s : State) : (s.dropTop).draws = s.draws := rfl

/-! ### State.countDraw -/

@[simp] theorem State.countDraw_cfg (s : State) : (s.countDraw).cfg = s.cfg := rfl
@[simp] theorem State.countDraw_v (s : State) : (s.countDraw).v = s.v := rfl
@[simp] theorem State.countDraw_i (s : State) : (s.countDraw).i = s.i := rfl
@[simp] theorem State.countDraw_pc (s : State) : (s.countDraw).pc = s.pc := rfl
@[simp] theorem State.countDraw_sp (s : State) : (s.countDraw).sp = s.sp := rfl
@[simp] theorem State.countDraw_stack (s : State) : (s.countDraw).stack = s.stack := rfl
@[simp] theorem State.countDraw_dt (s : State) : (s.countDraw).dt = s.dt := rfl
@[simp] theorem State.countDraw_st (s : State) : (s.countDraw).st = s.st := rfl
@[simp] theorem State.countDraw_mem (s : State) : (s.countDraw).mem = s.mem := rfl
@[simp] theorem State.countDraw_fb (s : State) : (s.countDraw).fb = s.fb := rfl
@[simp] theorem State.countDraw_dirty (s : State) : (s.countDraw).dirty = s.dirty := rfl
@[simp] theorem State.countDraw_fullRedraw (s : State) : (s.countDraw).fullRedraw = s.fullRedraw := rfl
@[simp] theorem State.countDraw_keys (s : State) : (s.countDraw).keys = s.keys := rfl
@[simp] theorem State.countDraw_run (s : State) : (s.countDraw).run = s.run := rfl
@[simp] theorem State.countDraw_speed (s : State) : (s.countDraw).speed = s.speed := rfl
@[simp] theorem State.countDraw_event (s : State) : (s.countDraw).event = s.event := rfl
@[simp] theorem State.countDraw_draws (s : State) : (s.countDraw).draws = s.draws + 1 := rfl

/-! ### State.setDisplay -/

@[simp] theorem State.setDisplay_cfg (s : State) (d : Drawing) : (s.setDisplay d).cfg = s.cfg := rfl
@[simp] theorem State.setDisplay_v (s : State) (d : Drawing) : (s.setDisplay d).v = s.v := rfl
@[simp] theorem State.setDisplay_i (s : State) (d : Drawing) : (s.setDisplay d).i = s.i := rfl
@[simp] theorem State.setDisplay_pc (s : State) (d : Drawing) : (s.setDisplay d).pc = s.pc := rfl
@[simp] theorem State.setDisplay_sp (s : State) (d : Drawing) : (s.setDisplay d).sp = s.sp := rfl
@[simp] theorem State.setDisplay_stack (s : State) (d : Drawing) : (s.setDisplay d).stack = s.stack := rfl
@[simp] theorem State.setDisplay_dt (s : State) (d : Drawing) : (s.setDisplay d).dt = s.dt := rfl
@[simp] theorem State.setDisplay_st (s : State) (d : Drawing) : (s.setDisplay d).st = s.st := rfl
@[simp] theorem State.setDisplay_mem (s : State) (d : Drawing) : (s.setDisplay d).mem = s.mem := rfl
@[simp] theorem State.setDisplay_fb (s : State) (d : Drawing) : (s.setDisplay d).fb = d.fb := rfl
@[simp] theorem State.setDisplay_dirty (s : State) (d : Drawing) : (s.setDisplay d).dirty = d.dirty := rfl
@[simp] theorem State.setDisplay_fullRedraw (s : State) (d : Drawing) : (s.setDisplay d).fullRedraw = s.fullRedraw := rfl
@[simp] theorem State.setDisplay_keys (s : State) (d : Drawing) : (s.setDisplay d).keys = s.keys := rfl
@[simp] theorem State.setDisplay_run (s : State) (d : Drawing) : (s.setDisplay d).run = s.run := rfl
@[simp] theorem State.setDisplay_speed (s : State) (d : Drawing) : (s.setDisplay d).speed = s.speed := rfl
@[simp] theorem State.setDisplay_event (s : State) (d : Drawing) : (s.setDisplay d).event = s.event := rfl
@[simp] theorem State.setDisplay_draws (s : State) (d : Drawing) : (s.setDisplay d).draws = s.draws := rfl

/-! ### State.setKey -/

@[simp] theorem State.setKey_cfg (s : State) (k : Nat) (b : Bool) : (s.setKey k b).cfg = s.cfg := rfl
@[simp] theorem State.setKey_v (s : State) (k : Nat) (b : Bool) : (s.setKey k b).v = s.v := rfl
@[simp] theorem State.setKey_i (s : State) (k : Nat) (b : Bool) : (s.setKey k b).i = s.i := rfl
@[simp] theorem State.setKey_pc (s : State) (k : Nat) (b : Bool) : (s.setKey k b).pc = s.pc := rfl
@[simp] theorem State.setKey_sp (s : State) (k : Nat) (b : Bool) : (s.setKey k b).sp = s.sp := rfl
@[simp] theorem State.setKey_stack (s : State) (k : Nat) (b : Bool) : (s.setKey k b).stack = s.stack := rfl
@[simp] theorem State.setKey_dt (s : State) (k : Nat) (b : Bool) : (s.setKey k b).dt = s.dt := rfl
@[simp] theorem State.setKey_st (s : State) (k : Nat) (b : Bool) : (s.setKey k b).st = s.st := rfl
@[simp] theorem State.setKey_mem (s : State) (k : Nat) (b : Bool) : (s.setKey k b).mem = s.mem := rfl
@[simp] theorem State.setKey_fb (s : State) (k : Nat) (b : Bool) : (s.setKey k b).fb = s.fb := rfl
@[simp] theorem State.setKey_dirty (s : State) (k : Nat) (b : Bool) : (s.setKey k b).dirty = s.dirty := rfl
@[simp] theorem State.setKey_fullRedraw (s : State) (k : Nat) (b : Bool) : (s.setKey k b).fullRedraw = s.fullRedraw := rfl
@[simp] theorem State.setKey_keys (s : State) (k : Nat) (b : Bool) : (s.setKey k b).keys = s.keys.setIfInBounds k b := rfl
@[simp] theorem State.setKey_run (s : State) (k : Nat) (b : Bool) : (s.setKey k b).run = s.run := rfl
@[simp] theorem State.setKey_speed (s : State) (k : Nat) (b : Bool) : (s.setKey k b).speed = s.speed := rfl
@[simp] theorem State.setKey_event (s : State) (k : Nat) (b : Bool) : (s.setKey k b).event = s.event := rfl
@[simp] theorem State.setKey_draws (s : State) (k : Nat) (b : Bool) : (s.setKey k b).draws = s.draws := rfl

/-! ### timerDecrement -/

@[simp] theorem timerDecrement_cfg (s : State) : (timerDecrement s).cfg = s.cfg := rfl
@[simp] theorem timerDecrement_v (s : State) : (timerDecrement s).v = s.v := rfl
@[simp] theorem timerDecrement_i (s : State) : (timerDecrement s).i = s.i := rfl
@[simp] theorem timerDecrement_pc (s : State) : (timerDecrement s).pc = s.pc := rfl
@[simp] theorem timerDecrement_sp (s : State) : (timerDecrement s).sp = s.sp := rfl
@[simp] theorem timerDecrement_stack (s : State) : (timerDecrement s).stack = s.stack := rfl
@[simp] theorem timerDecrement_dt (s : State) : (timerDecrement s).dt = countDown s.dt := rfl
@[simp] theorem timerDecrement_st (s : State) : (timerDecrement s).st = countDown s.st := rfl
@[simp] theorem timerDecrement_mem (s : State) : (timerDecrement s).mem = s.mem := rfl
@[simp] theorem timerDecrement_fb (s : State) : (timerDecrement s).fb = s.fb := rfl
@[simp] theorem timerDecrement_dirty (s : State) : (timerDecrement s).dirty = s.dirty := rfl
@[simp] theorem timerDecrement_fullRedraw (s : State) : (timerDecrement s).fullRedraw = s.fullRedraw := rfl
@[simp] theorem timerDecrement_keys (s : State) : (timerDecrement s).keys = s.keys := rfl
@[simp] theorem timerDecrement_run (s : State) : (timerDecrement s).run = s.run := rfl
@[simp] theorem timerDecrement_speed (s : State) : (timerDecrement s).speed = s.speed := rfl
@[simp] theorem timerDecrement_event (s : State) : (timerDecrement s).event = s.event := rfl
@[simp] theorem timerDecrement_draws (s : State) : (timerDecrement s).draws = s.draws := rfl

/-! ### clearDisplay -/

@[simp] theorem clearDisplay_cfg (s : State) : (clearDisplay s).cfg = s.cfg := rfl
@[simp] theorem clearDisplay_v (s : State) : (clearDisplay s).v = s.v := rfl
@[simp] theorem clearDisplay_i (s : State) : (clearDisplay s).i = s.i := rfl
@[simp] theorem clearDisplay_pc (s : State) : (clearDisplay s).pc = s.pc := rfl
@[simp] theorem clearDisplay_sp (s : State) : (clearDisplay s).sp = s.sp := rfl
@[simp] theorem clearDisplay_stack (s : State) : (clearDisplay s).stack = s.stack := rfl
@[simp] theorem clearDisplay_dt (s : State) : (clearDisplay s).dt = s.dt := rfl
@[simp] theorem clearDisplay_st (s : State) : (clearDisplay s).st = s.st := rfl
@[simp] theorem clearDisplay_mem (s : State) : (clearDisplay s).mem = s.mem := rfl
@[simp] theorem clearDisplay_fb (s : State) : (clearDisplay s).fb = Grid.blank := rfl
@[simp] theorem clearDisplay_dirty (s : State) : (clearDisplay s).dirty = Grid.blank := rfl
@[simp] theorem clearDisplay_fullRedraw (s : State) : (clearDisplay s).fullRedraw = true := rfl
@[simp] theorem clearDisplay_keys (s : State) : (clearDisplay s).keys = s.keys := rfl
@[simp] theorem clearDisplay_run (s : State) : (clearDisplay s).run = s.run := rfl
@[simp] theorem clearDisplay_speed (s : State) : (clearDisplay s).speed = s.speed := rfl
@[simp] theorem clearDisplay_event (s : State) : (clearDisplay s).event = s.event := rfl
@[simp] theorem clearDisplay_draws (s : State) : (clearDisplay s).draws = s.draws := rfl

end Sys2Proof.Machine
end

