-- ==== Sys2Proof/Laws/Display.lean ====
section
/-! SUPPORT. The grids cell by cell, and what drawing a sprite does to each cell (43_display.md R171 to R176). -/

namespace Sys2Proof.Machine

/-! ### Cells -/

theorem Grid.get_blank (x y : Nat) : Grid.get Grid.blank x y = false := by
  unfold Grid.get Grid.blank
  split <;> simp

theorem Grid.get_off {x y : Nat} (h : ¬ OnScreen x y) (g : Grid) : Grid.get g x y = false := dif_neg h

theorem Grid.get_set (g : Grid) (x y : Nat) (b : Bool) (x' y' : Nat) :
    Grid.get (Grid.set g x y b) x' y' = if (x' = x ∧ y' = y) ∧ OnScreen x y then b else Grid.get g x' y' := by
  by_cases h : OnScreen x y
  · obtain ⟨hx, hy⟩ := h
    by_cases h' : x' < 64 ∧ y' < 32
    · obtain ⟨hx', hy'⟩ := h'
      simp only [Grid.set, Grid.get, OnScreen, hx, hy, hx', hy', and_self, dif_pos, and_true]
      by_cases hyy : y = y'
      · subst hyy
        by_cases hxx : x = x'
        · subst hxx; simp
        · rw [if_neg (by omega)]
          simp [hxx]
      · rw [if_neg (by omega)]
        simp [hyy]
    · rw [if_neg (by rintro ⟨⟨rfl, rfl⟩, -⟩; exact h' ⟨hx, hy⟩), Grid.get_off h', Grid.get_off h']
  · rw [if_neg (fun hh => h hh.2)]
    unfold Grid.set
    rw [dif_neg h]

theorem Grid.get_toggle (g : Grid) (x y x' y' : Nat) :
    Grid.get (Grid.toggle g x y) x' y' =
      if (x' = x ∧ y' = y) ∧ OnScreen x y then !Grid.get g x' y' else Grid.get g x' y' := by
  unfold Grid.toggle
  rw [Grid.get_set]
  split
  · rename_i h
    obtain ⟨⟨rfl, rfl⟩, -⟩ := h
    rfl
  · rfl

/-- Two grids whose cells agree are equal. -/
theorem Grid.ext {g h : Grid} (hc : ∀ x y, OnScreen x y → Grid.get g x y = Grid.get h x y) : g = h := by
  refine Vector.ext fun y hy => Vector.ext fun x hx => ?_
  have := hc x y ⟨hx, hy⟩
  simpa only [Grid.get, hx, hy, and_self, dif_pos] using this

/-! ### What a drawing does, cell by cell -/

/-- How a dirty flag changes where the sprite covers its cell (R175). -/
def markedFlag (mode : DirtyUpdate) (old : Bool) : Bool :=
  match mode with
  | .set => true
  | .toggle => !old

/-- `d'` is `d` with the covered cells of the screen XORed, marked and tested for collision, each once. -/
structure Drawn (mode : DirtyUpdate) (c : Nat → Nat → Bool) (d d' : Drawing) : Prop where
  fb : ∀ x y, OnScreen x y → Grid.get d'.fb x y = Bool.xor (Grid.get d.fb x y) (c x y)
  dirty : ∀ x y, OnScreen x y →
    Grid.get d'.dirty x y = if c x y then markedFlag mode (Grid.get d.dirty x y) else Grid.get d.dirty x y
  coll : d'.coll = true ↔ d.coll = true ∨ ∃ x y, OnScreen x y ∧ c x y = true ∧ Grid.get d.fb x y = true

theorem Drawn.refl (mode : DirtyUpdate) (d : Drawing) : Drawn mode (fun _ _ => false) d d where
  fb := by simp
  dirty := by simp
  coll := by simp

theorem Drawn.congr {mode : DirtyUpdate} {c c' : Nat → Nat → Bool} {d d' : Drawing} (h : Drawn mode c d d')
    (hc : ∀ x y, OnScreen x y → c' x y = c x y) : Drawn mode c' d d' where
  fb x y hs := by rw [hc x y hs]; exact h.fb x y hs
  dirty x y hs := by rw [hc x y hs]; exact h.dirty x y hs
  coll := by
    rw [h.coll]
    refine or_congr Iff.rfl ⟨?_, ?_⟩
    · rintro ⟨x, y, hs, h1, h2⟩; exact ⟨x, y, hs, by rw [hc x y hs]; exact h1, h2⟩
    · rintro ⟨x, y, hs, h1, h2⟩; exact ⟨x, y, hs, by rw [← hc x y hs]; exact h1, h2⟩

/-- Two drawings one after the other, over different cells. -/
theorem Drawn.trans {mode : DirtyUpdate} {c₁ c₂ : Nat → Nat → Bool} {d₀ d₁ d₂ : Drawing} (h₁ : Drawn mode c₁ d₀ d₁)
    (h₂ : Drawn mode c₂ d₁ d₂) (hdisj : ∀ x y, c₁ x y = true → c₂ x y = false) :
    Drawn mode (fun x y => c₁ x y || c₂ x y) d₀ d₂ where
  fb x y hs := by
    rw [h₂.fb x y hs, h₁.fb x y hs]
    cases h : c₁ x y <;> simp [h, hdisj x y]
  dirty x y hs := by
    rw [h₂.dirty x y hs, h₁.dirty x y hs]
    cases h : c₁ x y
    · simp
    · simp [hdisj x y h]
  coll := by
    rw [h₂.coll, h₁.coll]
    constructor
    · rintro ((h | ⟨x, y, hs, hc, hf⟩) | ⟨x, y, hs, hc, hf⟩)
      · exact .inl h
      · exact .inr ⟨x, y, hs, by simp [hc], hf⟩
      · refine .inr ⟨x, y, hs, by simp [hc], ?_⟩
        have hf' := h₁.fb x y hs
        rw [hf] at hf'
        cases h : c₁ x y
        · simpa [h] using hf'.symm
        · have := hdisj x y h; simp [this] at hc
    · rintro (h | ⟨x, y, hs, hc, hf⟩)
      · exact .inl (.inl h)
      · cases h : c₁ x y
        · refine .inr ⟨x, y, hs, by simpa [h] using hc, ?_⟩
          rw [h₁.fb x y hs, hf, h]; rfl
        · exact .inl (.inr ⟨x, y, hs, h, hf⟩)

/-- One set sprite bit. -/
theorem drawPixel_drawn (mode : DirtyUpdate) (tx ty : Nat) (d : Drawing) :
    Drawn mode (fun x y => decide (x = tx) && decide (y = ty)) d (drawPixel mode tx ty d) := by
  by_cases h : OnScreen tx ty
  · have hd : drawPixel mode tx ty d =
        { fb := Grid.toggle d.fb tx ty, dirty := dirtyMark mode d.dirty tx ty,
          coll := d.coll || Grid.get d.fb tx ty } := if_pos h
    rw [hd]
    refine ⟨fun x y hs => ?_, fun x y hs => ?_, ?_⟩
    · rw [Grid.get_toggle]
      by_cases hxy : x = tx ∧ y = ty
      · rw [if_pos ⟨hxy, h⟩]
        simp [hxy]
      · rw [if_neg fun hh => hxy hh.1]
        have : (decide (x = tx) && decide (y = ty)) = false := by simpa using hxy
        simp [this]
    · by_cases hxy : x = tx ∧ y = ty
      · obtain ⟨rfl, rfl⟩ := hxy
        cases mode <;> simp [dirtyMark, markedFlag, Grid.get_set, Grid.get_toggle, h.1, h.2]
      · have : (decide (x = tx) && decide (y = ty)) = false := by simpa using hxy
        cases mode <;> simp [dirtyMark, Grid.get_set, Grid.get_toggle, hxy, this]
    · simp only [Bool.or_eq_true]
      refine or_congr Iff.rfl ⟨fun hf => ⟨tx, ty, h, by simp, hf⟩, ?_⟩
      rintro ⟨x, y, hs, hc, hf⟩
      obtain ⟨rfl, rfl⟩ : x = tx ∧ y = ty := by simpa using hc
      exact hf
  · have hd : drawPixel mode tx ty d = d := if_neg h
    rw [hd]
    refine (Drawn.refl mode d).congr fun x y hs => ?_
    simp only [Bool.and_eq_false_iff, decide_eq_false_iff_not]
    by_contra hcon
    push Not at hcon
    obtain ⟨rfl, rfl⟩ := hcon
    exact h hs

/-- Some columns of one sprite byte. -/
theorem drawColumns_drawn (mode : DirtyUpdate) (px y : Nat) (row : Byte) (cols : List Nat) (hnd : cols.Nodup)
    (d : Drawing) :
    Drawn mode (fun cx cy => decide (cy = y) && decide (px ≤ cx) && decide (cx - px ∈ cols) && spriteBit row (cx - px)) d
      (cols.foldl (fun d c => if spriteBit row c then drawPixel mode (px + c) y d else d) d) := by
  induction cols generalizing d with
  | nil => exact (Drawn.refl mode d).congr fun _ _ _ => by simp
  | cons c cols ih =>
    obtain ⟨hc, hnd'⟩ := List.nodup_cons.mp hnd
    rw [List.foldl_cons]
    by_cases hb : spriteBit row c = true
    · rw [if_pos hb]
      refine ((drawPixel_drawn mode (px + c) y d).trans (ih hnd' _) fun cx cy h => ?_).congr fun cx cy _ => ?_
      · obtain ⟨rfl, rfl⟩ : cx = px + c ∧ cy = y := by simpa using h
        simp [hc]
      · by_cases hcx : cx = px + c
        · subst hcx; simp [hb, hc]
        · have hne : px ≤ cx → cx - px ≠ c := by omega
          by_cases hle : px ≤ cx
          · simp [hcx, hne hle]
          · simp [hcx, hle]
    · rw [if_neg hb]
      refine (ih hnd' d).congr fun cx cy _ => ?_
      by_cases hcx : cx - px = c
      · simp [hcx, hb]
      · simp [hcx]

/-- One sprite byte: eight columns. -/
theorem drawRow_drawn (mode : DirtyUpdate) (px y : Nat) (row : Byte) (d : Drawing) :
    Drawn mode (fun cx cy => decide (cy = y) && decide (px ≤ cx) && decide (cx < px + 8) && row.getLsbD (7 - (cx - px))) d
      (drawRow mode px y row d) := by
  refine (drawColumns_drawn mode px y row (List.range 8) List.nodup_range d).congr fun cx cy _ => ?_
  simp only [spriteBit, List.mem_range]
  by_cases hle : px ≤ cx
  · have : (cx - px < 8) ↔ cx < px + 8 := by omega
    simp [hle, this]
  · simp [hle]

/-- A whole sprite (R171): the cells that `spriteCovers` names. -/
theorem drawRows_drawn (mode : DirtyUpdate) (px py : Nat) (rows : List Byte) (d : Drawing) :
    Drawn mode (fun cx cy => spriteCovers rows px py cx cy) d (drawRows mode px py rows d) := by
  induction rows generalizing py d with
  | nil =>
    refine (Drawn.refl mode d).congr fun cx cy _ => ?_
    simp [spriteCovers]
  | cons row rows ih =>
    refine ((drawRow_drawn mode px py row d).trans (ih (py + 1) _) fun cx cy h => ?_).congr fun cx cy _ => ?_
    · have : cy = py := by
        simp only [Bool.and_eq_true, decide_eq_true_eq] at h
        exact h.1.1.1
      simp [spriteCovers, this]
    · unfold spriteCovers
      by_cases hcy : cy = py
      · subst hcy
        simp
      · by_cases hle : py + 1 ≤ cy
        · obtain ⟨k, rfl⟩ : ∃ k, cy = py + 1 + k := ⟨cy - (py + 1), by omega⟩
          have e1 : py + 1 + k - py = k + 1 := by omega
          have e2 : py + 1 + k - (py + 1) = k := by omega
          have e3 : (py + 1 + k < py + (rows.length + 1)) ↔ (py + 1 + k < py + 1 + rows.length) := by omega
          simp only [e1, e2, List.length_cons, e3, List.getElem?_cons_succ]
          have h1 : py ≤ py + 1 + k := by omega
          have h2 : ¬ (py + 1 + k = py) := by omega
          have h3 : py + 1 ≤ py + 1 + k := by omega
          simp only [h1, h2, h3, decide_true, decide_false, Bool.false_and, Bool.false_or]
        · have h1 : ¬ (py ≤ cy) := by omega
          simp [h1, hcy, hle]

/-- The drawing that an instruction makes, cell by cell (R171, R176). -/
theorem State.drawing_drawn (s : State) (px py : Nat) (rows : List Byte) :
    Drawn s.cfg.dirtyUpdate (fun cx cy => spriteCovers rows px py cx cy) ⟨s.fb, s.dirty, false⟩ (s.drawing px py rows) :=
  drawRows_drawn s.cfg.dirtyUpdate px py rows ⟨s.fb, s.dirty, false⟩

/-- A draw collides exactly when a set sprite bit meets an on pixel of the screen (R176). -/
theorem State.drawing_coll (s : State) (px py : Nat) (rows : List Byte) :
    (s.drawing px py rows).coll = true ↔ Collides s.fb rows px py := by
  rw [(s.drawing_drawn px py rows).coll]
  simp [Collides]

end Sys2Proof.Machine
end

