-- ==== Sys2Proof/Laws/Encoding.lean ====
section
/-! SUPPORT. Slices of words: the fields of an encoded instruction, the bytes of a word, and rows in terms of slices. -/

namespace Sys2Proof

theorem slice_toNat (op : Word) (lo w : Nat) : (slice op lo w).toNat = op.toNat / 2 ^ lo % 2 ^ w := by
  simp [slice, BitVec.extractLsb'_toNat, Nat.shiftRight_eq_div_pow]

theorem slice_eq_iff (op : Word) (lo w : Nat) (b : BitVec w) :
    slice op lo w = b ↔ op.toNat / 2 ^ lo % 2 ^ w = b.toNat := by
  rw [← BitVec.toNat_inj, slice_toNat]

theorem opX_val (op : Word) : (opX op).val = op.toNat / 256 % 16 := slice_toNat op 8 4

theorem opY_val (op : Word) : (opY op).val = op.toNat / 16 % 16 := slice_toNat op 4 4

theorem opN_eq (op : Word) : opN op = op.toNat % 16 := by simp [opN, slice_toNat]

theorem opKK_toNat (op : Word) : (opKK op).toNat = op.toNat % 256 := by simp [opKK, slice_toNat]

theorem opNNN_toNat (op : Word) : (opNNN op).toNat = op.toNat % 4096 := by
  simp [opNNN, slice_toNat]
  omega

theorem formNNN_toNat {op : Nat} (h : op < 16) (nnn : Word) :
    (formNNN op nnn).toNat = op * 4096 + nnn.toNat % 4096 := by
  simp only [formNNN, BitVec.toNat_ofNat]
  omega

theorem formXKK_toNat {op : Nat} (h : op < 16) (x : RegIdx) (kk : Byte) :
    (formXKK op x kk).toNat = op * 4096 + x.val * 256 + kk.toNat := by
  simp only [formXKK, BitVec.toNat_ofNat]
  omega

theorem formXYN_toNat {op : Nat} (h : op < 16) (x y : RegIdx) (n : Nat) :
    (formXYN op x y n).toNat = op * 4096 + x.val * 256 + y.val * 16 + n % 16 := by
  simp only [formXYN, BitVec.toNat_ofNat]
  omega

/-- The fields of a word of format NNN are what was put in. -/
theorem formNNN_fields {op : Nat} (h : op < 16) {nnn : Word} (hn : nnnFits nnn = true) :
    slice (formNNN op nnn) 12 4 = BitVec.ofNat 4 op ∧ opNNN (formNNN op nnn) = nnn := by
  have : nnn.toNat ≤ 0xFFF := by simpa [nnnFits] using hn
  constructor
  · rw [slice_eq_iff, formNNN_toNat h]; simp; omega
  · apply BitVec.eq_of_toNat_eq; rw [opNNN_toNat, formNNN_toNat h]; omega

/-- The fields of a word of format XKK or XFF are what was put in. -/
theorem formXKK_fields {op : Nat} (h : op < 16) (x : RegIdx) (kk : Byte) :
    slice (formXKK op x kk) 12 4 = BitVec.ofNat 4 op ∧ opX (formXKK op x kk) = x ∧ opKK (formXKK op x kk) = kk := by
  have := kk.isLt
  refine ⟨?_, Fin.ext ?_, BitVec.eq_of_toNat_eq ?_⟩
  · rw [slice_eq_iff, formXKK_toNat h]; simp; omega
  · rw [opX_val, formXKK_toNat h]; omega
  · rw [opKK_toNat, formXKK_toNat h]; omega

/-- The fields of a word of format XYN or XYF are what was put in. -/
theorem formXYN_fields {op : Nat} (h : op < 16) (x y : RegIdx) {n : Nat} (hn : n < 16) :
    slice (formXYN op x y n) 12 4 = BitVec.ofNat 4 op ∧ opX (formXYN op x y n) = x ∧ opY (formXYN op x y n) = y ∧
      slice (formXYN op x y n) 0 4 = BitVec.ofNat 4 n ∧ opN (formXYN op x y n) = n := by
  refine ⟨?_, Fin.ext ?_, Fin.ext ?_, ?_, ?_⟩
  · rw [slice_eq_iff, formXYN_toNat h]; simp; omega
  · rw [opX_val, formXYN_toNat h]; omega
  · rw [opY_val, formXYN_toNat h]; omega
  · rw [slice_eq_iff, formXYN_toNat h]; simp; omega
  · rw [opN_eq, formXYN_toNat h]; omega

/-- The two bytes of a word make the word again (R72). -/
theorem wordOfBytes_split (op : Word) : wordOfBytes (highByte op) (lowByte op) = op := by
  apply BitVec.eq_of_toNat_eq
  have h1 : (highByte op).toNat = op.toNat / 256 % 256 := slice_toNat op 8 8
  have h2 : (lowByte op).toNat = op.toNat % 256 := by simp [lowByte, slice_toNat]
  simp only [wordOfBytes, BitVec.toNat_append, h1, h2]
  rw [← Nat.shiftLeft_add_eq_or_of_lt (by omega), Nat.shiftLeft_eq]
  have := op.isLt
  omega

theorem wordOfBytes_toNat (hi lo : Byte) : (wordOfBytes hi lo).toNat = hi.toNat * 256 + lo.toNat := by
  simp only [wordOfBytes, BitVec.toNat_append]
  rw [← Nat.shiftLeft_add_eq_or_of_lt lo.isLt, Nat.shiftLeft_eq]

/-! ### Masked words by their slices -/

theorem mask_F000 (op : Word) : op &&& 0xF000#16 = (slice op 12 4).setWidth 16 <<< 12 := by
  apply BitVec.eq_of_getElem_eq
  intro i hi
  interval_cases i <;> simp [slice, BitVec.getElem_shiftLeft, BitVec.getElem_extractLsb']

theorem mask_F00F (op : Word) : op &&& 0xF00F#16 = (slice op 12 4).setWidth 16 <<< 12 ||| (slice op 0 4).setWidth 16 := by
  apply BitVec.eq_of_getElem_eq
  intro i hi
  interval_cases i <;> simp [slice, BitVec.getElem_shiftLeft, BitVec.getElem_extractLsb']

theorem mask_F0FF (op : Word) : op &&& 0xF0FF#16 = (slice op 12 4).setWidth 16 <<< 12 ||| (slice op 0 8).setWidth 16 := by
  apply BitVec.eq_of_getElem_eq
  intro i hi
  interval_cases i <;> simp [slice, BitVec.getElem_shiftLeft, BitVec.getElem_extractLsb']

theorem slice_pack_high (h : BitVec 4) (b : BitVec 8) : slice (h.setWidth 16 <<< 12 ||| b.setWidth 16) 12 4 = h := by
  apply BitVec.eq_of_getElem_eq
  intro i hi
  interval_cases i <;> simp [slice, BitVec.getElem_extractLsb']

theorem slice_pack_low (h : BitVec 4) (b : BitVec 8) : slice (h.setWidth 16 <<< 12 ||| b.setWidth 16) 0 8 = b := by
  apply BitVec.eq_of_getElem_eq
  intro i hi
  interval_cases i <;> simp [slice, BitVec.getElem_extractLsb']

theorem pack_inj {h h' : BitVec 4} {b b' : BitVec 8}
    (he : (h.setWidth 16 <<< 12 ||| b.setWidth 16 : Word) = h'.setWidth 16 <<< 12 ||| b'.setWidth 16) : h = h' ∧ b = b' :=
  ⟨by rw [← slice_pack_high h b, he, slice_pack_high], by rw [← slice_pack_low h b, he, slice_pack_low]⟩

/-- A word fits a row whose mask is 0xF000 when its high nibble is the row's. -/
theorem fits_F000 (op : Word) (p : Word) (h : BitVec 4) (hp : p = h.setWidth 16 <<< 12) :
    OpcodeRow.fits ⟨0xF000, p⟩ op = decide (slice op 12 4 = h) := by
  rw [OpcodeRow.fits, show (0xF000 : Word) = 0xF000#16 from rfl, mask_F000, Bool.eq_iff_iff, hp]
  simp only [beq_iff_eq, decide_eq_true_eq]
  refine ⟨fun he => (pack_inj (b := 0) (b' := 0) ?_).1, fun he => by rw [he]⟩
  simpa using he

/-- A word fits a row whose mask is 0xF0FF when its high nibble and its low byte are the row's. -/
theorem fits_F0FF (op : Word) (p : Word) (h : BitVec 4) (b : BitVec 8) (hp : p = h.setWidth 16 <<< 12 ||| b.setWidth 16) :
    OpcodeRow.fits ⟨0xF0FF, p⟩ op = decide (slice op 12 4 = h ∧ slice op 0 8 = b) := by
  rw [OpcodeRow.fits, show (0xF0FF : Word) = 0xF0FF#16 from rfl, mask_F0FF, Bool.eq_iff_iff, hp]
  simp only [beq_iff_eq, decide_eq_true_eq]
  exact ⟨pack_inj, fun he => by rw [he.1, he.2]⟩

theorem nibble_inj {a b : BitVec 4} (h : a.setWidth 8 = b.setWidth 8) : a = b := by
  revert a b
  decide

/-- A word fits a row whose mask is 0xF00F when its high and low nibbles are the row's. -/
theorem fits_F00F (op : Word) (p : Word) (h n : BitVec 4) (hp : p = h.setWidth 16 <<< 12 ||| n.setWidth 16) :
    OpcodeRow.fits ⟨0xF00F, p⟩ op = decide (slice op 12 4 = h ∧ slice op 0 4 = n) := by
  rw [OpcodeRow.fits, show (0xF00F : Word) = 0xF00F#16 from rfl, mask_F00F, Bool.eq_iff_iff, hp]
  simp only [beq_iff_eq, decide_eq_true_eq]
  refine ⟨fun he => ?_, fun he => by rw [he.1, he.2]⟩
  have hw : ∀ m : BitVec 4, m.setWidth 16 = (m.setWidth 8).setWidth 16 := by decide
  rw [hw n, hw (slice op 0 4)] at he
  exact ⟨(pack_inj he).1, nibble_inj (pack_inj he).2⟩

end Sys2Proof
end

