-- ==== Sys2Proof/Laws/Memory.lean ====
section
/-! SUPPORT. Memory: a read after a write, and every memory operation keeps the canonical form. -/

namespace Sys2Proof.Machine

/-- Every listed address lies above `a`. -/
abbrev Memory.Above (a : Nat) (m : Memory) : Prop := ∀ c ∈ m, a < c.1

theorem Memory.lookup_eq_none_of_above {m : Memory} {a : Nat} (h : Memory.Above a m) : Memory.lookup m a = none := by
  induction m with
  | nil => rfl
  | cons c m ih =>
    have hc := h c (by simp)
    simp only [Memory.lookup]
    rw [if_neg (by omega)]
    exact ih fun d hd => h d (by simp [hd])

theorem Memory.lookup_insert (m : Memory) (a : Nat) (v : Byte) (b : Nat) :
    Memory.lookup (Memory.insert m a v) b = if b = a then some v else Memory.lookup m b := by
  induction m with
  | nil => simp [Memory.insert, Memory.lookup, eq_comm]
  | cons c m ih =>
    obtain ⟨k, w⟩ := c
    simp only [Memory.insert]
    split
    · simp only [Memory.lookup, eq_comm]
    · split
      · subst k
        simp only [Memory.lookup, eq_comm]
        split <;> rfl
      · simp only [Memory.lookup, ih]
        split
        · rename_i h1 h2 h3
          rw [if_neg (by omega)]
        · rfl

theorem Memory.lookup_erase (m : Memory) (a b : Nat) :
    Memory.lookup (Memory.erase m a) b = if b = a then none else Memory.lookup m b := by
  induction m with
  | nil => simp [Memory.erase, Memory.lookup]
  | cons c m ih =>
    obtain ⟨k, w⟩ := c
    simp only [Memory.erase] at ih ⊢
    rw [List.filter_cons]
    by_cases hk : k = a
    · subst k
      simp only [bne_self_eq_false, Bool.false_eq_true, if_false, ih, Memory.lookup]
      split
      · rfl
      · rw [if_neg (by omega)]
    · rw [if_pos (by simpa using hk)]
      simp only [Memory.lookup, ih]
      split
      · rename_i h
        rw [if_neg (by omega)]
      · rfl

/-- A read after a write: the written byte at its address, and every other byte as before. -/
theorem Memory.read_write (font : Vector Byte 80) (m : Memory) (a : Nat) (v : Byte) (b : Nat) :
    Memory.read font (Memory.write font m a v) b = if b = a then v else Memory.read font m b := by
  unfold Memory.read Memory.write
  split
  · rename_i hv
    rw [Memory.lookup_erase]
    split
    · subst b; simp [hv]
    · rfl
  · rw [Memory.lookup_insert]
    split <;> simp

theorem Memory.mem_insert {m : Memory} {a : Nat} {v : Byte} {c : Host.Cell} (h : c ∈ Memory.insert m a v) :
    c = (a, v) ∨ c ∈ m := by
  induction m with
  | nil => simpa [Memory.insert] using h
  | cons d m ih =>
    simp only [Memory.insert] at h
    split at h
    · simpa using h
    · split at h
      · simp only [List.mem_cons] at h ⊢
        tauto
      · simp only [List.mem_cons] at h ⊢
        rcases h with h | h
        · tauto
        · have := ih h; tauto

theorem Memory.pairwise_insert {m : Memory} (hs : m.Pairwise (fun p q => p.1 < q.1)) (a : Nat) (v : Byte) :
    (Memory.insert m a v).Pairwise (fun p q => p.1 < q.1) := by
  induction m with
  | nil => simp [Memory.insert]
  | cons d m ih =>
    obtain ⟨k, w⟩ := d
    obtain ⟨hk, hm⟩ := List.pairwise_cons.mp hs
    simp only [Memory.insert]
    split
    · rename_i hlt
      refine List.pairwise_cons.mpr ⟨fun c hc => ?_, hs⟩
      rcases List.mem_cons.mp hc with rfl | hc
      · exact hlt
      · exact Nat.lt_trans hlt (hk c hc)
    · split
      · subst a
        exact List.pairwise_cons.mpr ⟨hk, hm⟩
      · refine List.pairwise_cons.mpr ⟨fun c hc => ?_, ih hm⟩
        rcases Memory.mem_insert hc with rfl | hc
        · show k < a
          omega
        · exact hk c hc

theorem Memory.erase_sublist (m : Memory) (a : Nat) : (Memory.erase m a).Sublist m := List.filter_sublist

/-- A write keeps the canonical form. -/
theorem Memory.write_wf {font : Vector Byte 80} {m : Memory} (h : Memory.WF font m) {a : Nat} (ha : a < 4096) (v : Byte) :
    Memory.WF font (Memory.write font m a v) := by
  obtain ⟨hs, hc⟩ := h
  unfold Memory.write
  split
  · exact ⟨hs.sublist (Memory.erase_sublist m a), fun c hm => hc c ((Memory.erase_sublist m a).mem hm)⟩
  · rename_i hv
    refine ⟨Memory.pairwise_insert hs a v, fun c hm => ?_⟩
    rcases Memory.mem_insert hm with rfl | hm
    · exact ⟨ha, hv⟩
    · exact hc c hm

/-- The empty listing is canonical. -/
theorem Memory.nil_wf (font : Vector Byte 80) : Memory.WF font [] := by simp [Memory.WF]

/-! ### The same, of a state -/

theorem State.writeByte_of_lt (s : State) {a : Nat} (h : a < 4096) (b : Byte) :
    s.writeByte a b = { s with mem := Memory.write s.cfg.font s.mem a b } := if_pos h

theorem State.writeByte_of_not_lt (s : State) {a : Nat} (h : ¬ a < 4096) (b : Byte) : s.writeByte a b = s := if_neg h

/-- `writeByte` changes MEM and nothing else. -/
theorem State.writeByte_eq (s : State) (a : Nat) (b : Byte) : s.writeByte a b = { s with mem := (s.writeByte a b).mem } := by
  unfold State.writeByte
  split <;> rfl

@[simp] theorem State.writeByte_cfg (s : State) (a : Nat) (b : Byte) : (s.writeByte a b).cfg = s.cfg := by
  rw [State.writeByte_eq]

theorem State.writeByte_wf {s : State} (h : Memory.WF s.cfg.font s.mem) (a : Nat) (b : Byte) :
    Memory.WF s.cfg.font (s.writeByte a b).mem := by
  unfold State.writeByte
  split
  · exact Memory.write_wf h ‹_› b
  · exact h

/-- The byte at every address after a write inside memory. -/
theorem State.readByte_writeByte (s : State) {a : Nat} (ha : a < 4096) (v : Byte) (b : Nat) :
    (s.writeByte a v).readByte b = if b = a then v else s.readByte b := by
  rw [State.writeByte_of_lt s ha]
  exact Memory.read_write s.cfg.font s.mem a v b

end Sys2Proof.Machine
end

