-- ==== Sys2Proof/Laws/Transfer.lean ====
section
/-! SUPPORT. Addresses, and transfers of several bytes: when they succeed, what they read, what they write, and what they
leave alone (00_scope.md R13; 20_memory.md R54, R57). -/

namespace Sys2Proof.Machine

/-! ### A and P -/

theorem formAddr_wrap {cfg : Config} (h : cfg.addrMode = .wrap) (v : Nat) : formAddr cfg v = .ok (v % 4096) := by
  simp [formAddr, h]

theorem formAddr_fault {cfg : Config} (h : cfg.addrMode = .fault) (v : Nat) :
    formAddr cfg v = if v ≤ 0xFFF then .ok v else .error (.invalidAddress v) := by
  simp [formAddr, h]

/-- A formed address lies in memory. -/
theorem formAddr_lt {cfg : Config} {v a : Nat} (h : formAddr cfg v = .ok a) : a < 4096 := by
  unfold formAddr at h
  split at h
  · injection h with h; omega
  · split at h
    · injection h with h; omega
    · cases h

theorem formAddr_error {cfg : Config} {v : Nat} {e : Event} (h : formAddr cfg v = .error e) :
    cfg.addrMode = .fault ∧ v > 0xFFF ∧ e = .invalidAddress v := by
  unfold formAddr at h
  split at h
  · cases h
  · split at h
    · cases h
    · injection h with h
      exact ⟨‹_›, by omega, h.symm⟩

/-- Two of fewer than 4096 consecutive operand addresses are formed to different addresses. -/
theorem formAddr_inj {cfg : Config} {v j k a : Nat} (hj : formAddr cfg (v + j) = .ok a) (hk : formAddr cfg (v + k) = .ok a)
    (hj' : j < 4096) (hk' : k < 4096) : j = k := by
  cases hm : cfg.addrMode with
  | wrap =>
    rw [formAddr_wrap hm] at hj hk
    injection hj with hj
    injection hk with hk
    omega
  | fault =>
    rw [formAddr_fault hm] at hj hk
    split at hj
    · split at hk
      · injection hj with hj
        injection hk with hk
        omega
      · cases hk
    · cases hj

theorem normPc_wrap_le {cfg : Config} (h : cfg.addrMode = .wrap) (v : Nat) : (normPc cfg v).toNat ≤ 0xFFF := by
  simp only [normPc, h, BitVec.toNat_ofNat]
  omega

/-! ### The range of a transfer -/

theorem TransferInRange.zero (cfg : Config) (v : Nat) : TransferInRange cfg v 0 := by
  unfold TransferInRange
  split <;> simp

/-- A transfer of n + 1 bytes is in range when its first address exists and the rest is in range. -/
theorem TransferInRange.succ_iff (cfg : Config) (v n : Nat) :
    TransferInRange cfg v (n + 1) ↔ (∃ a, formAddr cfg v = .ok a) ∧ TransferInRange cfg (v + 1) n := by
  unfold TransferInRange formAddr
  cases cfg.addrMode with
  | wrap => simp
  | fault =>
    by_cases h : v ≤ 0xFFF
    · simp only [h, if_true]
      constructor
      · intro h'; exact ⟨⟨_, rfl⟩, by omega⟩
      · rintro ⟨-, h'⟩; omega
    · simp only [h, if_false]
      constructor
      · intro h'; omega
      · rintro ⟨⟨a, ha⟩, -⟩; cases ha

theorem TransferInRange.addr {cfg : Config} {v n : Nat} (h : TransferInRange cfg v n) {k : Nat} (hk : k < n) :
    ∃ a, formAddr cfg (v + k) = .ok a := by
  induction n generalizing v k with
  | zero => omega
  | succ n ih =>
    obtain ⟨h1, h2⟩ := (TransferInRange.succ_iff cfg v n).mp h
    cases k with
    | zero => exact h1
    | succ k =>
      obtain ⟨a, ha⟩ := ih h2 (k := k) (by omega)
      exact ⟨a, by rwa [show v + (k + 1) = v + 1 + k by omega]⟩

/-- A transfer out of range fails at its first address above 0xFFF. -/
theorem formAddrs_out {cfg : Config} {v n : Nat} (h : ¬ TransferInRange cfg v n) :
    formAddrs cfg v n = .error (.invalidAddress (firstOutOfRange v)) := by
  induction n generalizing v with
  | zero => exact absurd (TransferInRange.zero cfg v) h
  | succ n ih =>
    rw [TransferInRange.succ_iff] at h
    cases hf : formAddr cfg v with
    | error e =>
      obtain ⟨-, hv, rfl⟩ := formAddr_error hf
      simp [formAddrs, hf, firstOutOfRange, show ¬ v ≤ 4095 by omega]
    | ok a =>
      have h2 : ¬ TransferInRange cfg (v + 1) n := fun h2 => h ⟨⟨a, hf⟩, h2⟩
      have hv : v ≤ 0xFFF := by
        unfold formAddr at hf
        unfold TransferInRange at h2
        cases hm : cfg.addrMode with
        | wrap => simp [hm] at h2
        | fault =>
          simp only [hm] at hf
          split at hf
          · assumption
          · cases hf
      simp only [formAddrs, hf, ih h2, firstOutOfRange, hv, if_true]
      congr 2
      split <;> omega

theorem formAddrs_in {cfg : Config} {v n : Nat} (h : TransferInRange cfg v n) :
    ∃ as, formAddrs cfg v n = .ok as ∧ as.length = n ∧ ∀ k < n, ∃ a, as[k]? = some a ∧ formAddr cfg (v + k) = .ok a := by
  induction n generalizing v with
  | zero => exact ⟨[], rfl, rfl, by omega⟩
  | succ n ih =>
    obtain ⟨⟨a, ha⟩, h2⟩ := (TransferInRange.succ_iff cfg v n).mp h
    obtain ⟨as, h3, h4, h5⟩ := ih h2
    refine ⟨a :: as, by simp [formAddrs, ha, h3], by simp [h4], fun k hk => ?_⟩
    cases k with
    | zero => exact ⟨a, rfl, ha⟩
    | succ k =>
      obtain ⟨b, hb, hf⟩ := h5 k (by omega)
      exact ⟨b, by simpa using hb, by rwa [show v + (k + 1) = v + 1 + k by omega]⟩

/-! ### Loads -/

theorem loadByte_of_addr {s : State} {v a : Nat} (h : formAddr s.cfg v = .ok a) : loadByte s v = .ok (s.readByte a) := by
  simp [loadByte, h, memRead, formAddr_lt h]

theorem loadByte_error {s : State} {v : Nat} {e : Event} (h : loadByte s v = .error e) : formAddr s.cfg v = .error e := by
  cases hf : formAddr s.cfg v with
  | error e' => simpa [loadByte, hf] using h
  | ok a => rw [loadByte_of_addr hf] at h; cases h

theorem loadBytes_in {s : State} {v n : Nat} (h : TransferInRange s.cfg v n) :
    ∃ bs, loadBytes s v n = .ok bs ∧ bs.length = n ∧
      ∀ k < n, ∃ a, formAddr s.cfg (v + k) = .ok a ∧ bs[k]? = some (s.readByte a) := by
  induction n generalizing v with
  | zero => exact ⟨[], rfl, rfl, by omega⟩
  | succ n ih =>
    obtain ⟨⟨a, ha⟩, h2⟩ := (TransferInRange.succ_iff s.cfg v n).mp h
    obtain ⟨bs, h3, h4, h5⟩ := ih h2
    refine ⟨s.readByte a :: bs, by simp [loadBytes, loadByte_of_addr ha, h3], by simp [h4], fun k hk => ?_⟩
    cases k with
    | zero => exact ⟨a, ha, rfl⟩
    | succ k =>
      obtain ⟨b, hf, hb⟩ := h5 k (by omega)
      exact ⟨b, by rwa [show v + (k + 1) = v + 1 + k by omega], by simpa using hb⟩

theorem loadBytes_out {s : State} {v n : Nat} (h : ¬ TransferInRange s.cfg v n) :
    loadBytes s v n = .error (.invalidAddress (firstOutOfRange v)) := by
  induction n generalizing v with
  | zero => exact absurd (TransferInRange.zero s.cfg v) h
  | succ n ih =>
    cases hf : formAddr s.cfg v with
    | error e =>
      obtain ⟨-, hv, rfl⟩ := formAddr_error hf
      simp [loadBytes, loadByte, hf, firstOutOfRange, show ¬ v ≤ 4095 by omega]
    | ok a =>
      have h2 : ¬ TransferInRange s.cfg (v + 1) n := fun h2 => h ((TransferInRange.succ_iff _ _ _).mpr ⟨⟨a, hf⟩, h2⟩)
      have hall := formAddrs_out h
      simp only [formAddrs, hf, formAddrs_out h2] at hall
      simp only [loadBytes, loadByte_of_addr hf, ih h2]
      exact congrArg Except.error (Except.error.inj hall)

/-! ### Stores -/

/-- Writing bytes at addresses of memory changes MEM only, and keeps it canonical. -/
theorem writeAll_ok (s : State) (as : List Nat) (bs : List Byte) (h : ∀ a ∈ as, a < 4096) :
    ∃ t, writeAll s as bs = .ok t ∧ t = { s with mem := t.mem } ∧
      (Memory.WF s.cfg.font s.mem → Memory.WF s.cfg.font t.mem) := by
  induction as generalizing s bs with
  | nil => exact ⟨s, by cases bs <;> rfl, rfl, id⟩
  | cons a as ih =>
    cases bs with
    | nil => exact ⟨s, rfl, rfl, id⟩
    | cons b bs =>
      obtain ⟨t, h1, h2, h3⟩ := ih (s.writeByte a b) bs fun c hc => h c (by simp [hc])
      have hcfg : (s.writeByte a b).cfg = s.cfg := State.writeByte_cfg s a b
      refine ⟨t, ?_, ?_, fun hw => ?_⟩
      · rw [writeAll, memWrite, if_pos (h a (by simp))]
        exact h1
      · rw [h2, State.writeByte_eq]
      · have := h3 (by rw [hcfg]; exact State.writeByte_wf hw a b)
        rwa [hcfg] at this

/-- The byte at an address after bytes are written at distinct addresses of memory. -/
theorem writeAll_read {s t : State} {as : List Nat} {bs : List Byte} (ht : writeAll s as bs = .ok t)
    (hlen : as.length = bs.length) (hlt : ∀ a ∈ as, a < 4096) (hnd : as.Nodup) :
    (∀ a, a ∉ as → t.readByte a = s.readByte a) ∧
    ∀ (k a : Nat), as[k]? = some a → bs[k]? = some (t.readByte a) := by
  induction as generalizing s bs with
  | nil =>
    cases bs with
    | nil => simp only [writeAll] at ht; injection ht with ht; subst ht; simp
    | cons b bs => simp at hlen
  | cons a as ih =>
    cases bs with
    | nil => simp at hlen
    | cons b bs =>
      have ha : a < 4096 := hlt a (by simp)
      rw [writeAll, memWrite, if_pos ha] at ht
      obtain ⟨hna, hnd'⟩ := List.nodup_cons.mp hnd
      obtain ⟨h1, h2⟩ := ih ht (by simpa using hlen) (fun c hc => hlt c (by simp [hc])) hnd'
      refine ⟨fun c hc => ?_, fun k c hk => ?_⟩
      · simp only [List.mem_cons, not_or] at hc
        rw [h1 c hc.2, State.readByte_writeByte s ha, if_neg hc.1]
      · cases k with
        | zero =>
          simp only [List.getElem?_cons_zero, Option.some.injEq] at hk ⊢
          subst hk
          rw [h1 a hna, State.readByte_writeByte s ha, if_pos rfl]
        | succ k => simpa using h2 k c (by simpa using hk)

/-- A store in range: it changes MEM only, keeps it canonical, puts each byte at its address and leaves every other
address alone. -/
theorem storeBytes_in {s : State} {v : Nat} {bs : List Byte} (h : TransferInRange s.cfg v bs.length)
    (hsmall : bs.length ≤ 4096) :
    ∃ t, storeBytes s v bs = .ok t ∧ t = { s with mem := t.mem } ∧
      (Memory.WF s.cfg.font s.mem → Memory.WF s.cfg.font t.mem) ∧
      (∀ a, OutsideTransfer s.cfg v bs.length a → t.readByte a = s.readByte a) ∧
      ∀ k < bs.length, ∀ a, AddressIs s.cfg (v + k) a → bs[k]? = some (t.readByte a) := by
  obtain ⟨as, h1, h2, h3⟩ := formAddrs_in h
  have hmem : ∀ a ∈ as, ∃ k < bs.length, formAddr s.cfg (v + k) = .ok a := fun a ha => by
    obtain ⟨k, hk, rfl⟩ := List.getElem_of_mem ha
    obtain ⟨b, hb, hf⟩ := h3 k (by omega)
    rw [List.getElem?_eq_getElem hk] at hb
    injection hb with hb
    exact ⟨k, by omega, hb ▸ hf⟩
  have hlt : ∀ a ∈ as, a < 4096 := fun a ha => by
    obtain ⟨k, -, hf⟩ := hmem a ha
    exact formAddr_lt hf
  have hnd : as.Nodup := by
    rw [List.nodup_iff_injective_getElem]
    rintro ⟨j, hj⟩ ⟨k, hk⟩ heq
    obtain ⟨b, hb, hfj⟩ := h3 j (by omega)
    obtain ⟨c, hc, hfk⟩ := h3 k (by omega)
    rw [List.getElem?_eq_getElem hj] at hb
    rw [List.getElem?_eq_getElem hk] at hc
    injection hb with hb
    injection hc with hc
    have hbc : b = c := by rw [← hb, ← hc]; exact heq
    subst hbc
    exact Fin.ext (formAddr_inj hfj hfk (by omega) (by omega))
  obtain ⟨t, ht, hm, hwf⟩ := writeAll_ok s as bs hlt
  obtain ⟨hr1, hr2⟩ := writeAll_read ht h2 hlt hnd
  refine ⟨t, by simp [storeBytes, h1, ht], hm, hwf, fun a ha => ?_, fun k hk a ha => ?_⟩
  · refine hr1 a fun hin => ?_
    obtain ⟨k, hk, hf⟩ := hmem a hin
    exact ha k hk hf
  · obtain ⟨b, hb, hf⟩ := h3 k hk
    have hab : b = a := by
      have := hf.symm.trans ha
      injection this
    exact hr2 k a (hab ▸ hb)

theorem storeBytes_out {s : State} {v : Nat} {bs : List Byte} (h : ¬ TransferInRange s.cfg v bs.length) :
    storeBytes s v bs = .error (.invalidAddress (firstOutOfRange v)) := by
  simp [storeBytes, formAddrs_out h]

/-! ### The fetch -/

/-- The fetch when both of its addresses exist (30_encoding.md R72). -/
theorem fetch_of_addrs {s : State} {a b : Nat} (ha : formAddr s.cfg s.pc.toNat = .ok a)
    (hb : formAddr s.cfg (s.pc.toNat + 1) = .ok b) : fetch s = .ok (wordOfBytes (s.readByte a) (s.readByte b)) := by
  simp [fetch, loadByte_of_addr ha, loadByte_of_addr hb]

theorem fetch_error {s : State} {e : Event} (h : fetch s = .error e) :
    formAddr s.cfg s.pc.toNat = .error e ∨
      (∃ a, formAddr s.cfg s.pc.toNat = .ok a) ∧ formAddr s.cfg (s.pc.toNat + 1) = .error e := by
  unfold fetch at h
  split at h
  · rename_i e' he
    injection h with h
    subst h
    exact .inl (loadByte_error he)
  · rename_i hi hhi
    split at h
    · rename_i e' he
      injection h with h
      subst h
      refine .inr ⟨?_, loadByte_error he⟩
      cases hf : formAddr s.cfg s.pc.toNat with
      | ok a => exact ⟨a, rfl⟩
      | error e'' => simp [loadByte, hf] at hhi
    · cases h

/-- The fetch reads PC, MEM and the parameters, and nothing else. -/
theorem fetch_congr {s t : State} (hc : t.cfg = s.cfg) (hp : t.pc = s.pc) (hm : t.mem = s.mem) : fetch t = fetch s := by
  simp only [fetch, loadByte, memRead, State.readByte, hc, hp, hm]

end Sys2Proof.Machine
end

