-- ==== Sys2Proof/Laws/Exec.lean ====
section
/-! SUPPORT. What each shared operation of the instructions can do, once each, for proofs to cite. -/

namespace Sys2Proof.Machine

/-! ### Registers -/

@[simp] theorem State.readV_writeV (s : State) (r q : RegIdx) (b : Byte) :
    (s.writeV r b).readV q = if q = r then b else s.readV q := by
  simp only [State.readV, State.writeV_v, Fin.getElem_fin]
  rw [Vector.getElem_set]
  simp only [Fin.ext_iff, eq_comm]

/-- A register reads the same in states whose register files are the same. -/
theorem State.readV_congr {s t : State} (h : t.v = s.v) (r : RegIdx) : t.readV r = s.readV r := by
  simp only [State.readV, h]

/-- `writeRegsFrom` changes the general registers and nothing else. -/
theorem State.writeRegsFrom_eq (s : State) (k : Nat) (bs : List Byte) :
    s.writeRegsFrom k bs = { s with v := (s.writeRegsFrom k bs).v } := by
  induction bs generalizing s k with
  | nil => rfl
  | cons b bs ih =>
    rw [State.writeRegsFrom, ih]
    unfold State.writeVNat
    split <;> rfl

/-- `writeRegsFrom` writes one byte to each register from k on (42_index_memory.md R155). -/
theorem State.readV_writeRegsFrom (s : State) (k : Nat) (bs : List Byte) (r : RegIdx) :
    (s.writeRegsFrom k bs).readV r =
      if k ≤ r.val ∧ r.val < k + bs.length then (bs[r.val - k]?).getD 0 else s.readV r := by
  induction bs generalizing s k with
  | nil =>
    rw [if_neg (by simp)]
    rfl
  | cons b bs ih =>
    rw [State.writeRegsFrom, ih]
    have hr := r.isLt
    by_cases h : k + 1 ≤ r.val ∧ r.val < k + 1 + bs.length
    · rw [if_pos h, if_pos (by simp only [List.length_cons]; omega)]
      rw [show r.val - k = r.val - (k + 1) + 1 by omega, List.getElem?_cons_succ]
    · rw [if_neg h]
      by_cases hk : r.val = k
      · rw [if_pos (by simp only [List.length_cons]; omega)]
        subst hk
        simp [State.writeVNat, hr]
      · rw [if_neg (by simp only [List.length_cons]; omega)]
        unfold State.writeVNat
        split
        · rw [State.readV_writeV, if_neg (by intro h; exact hk (congrArg Fin.val h))]
        · rfl

theorem State.regsUpTo_length (s : State) (x : RegIdx) : (s.regsUpTo x).length = x.val + 1 := by
  simp [State.regsUpTo]

theorem State.regsUpTo_get (s : State) (x r : RegIdx) (h : r ≤ x) : (s.regsUpTo x)[r.val]? = some (s.readV r) := by
  have : r.val < x.val + 1 := Nat.lt_succ_of_le h
  simp [State.regsUpTo, this, State.readV]

/-! ### PC -/

theorem State.skipIf_eq (s : State) (c : Bool) : s.skipIf c = s.jump (s.pc.toNat + if c then 4 else 2) := by
  unfold State.skipIf
  cases c <;> rfl

theorem State.advance_eq (s : State) : s.advance = s.jump (s.pc.toNat + 2) := rfl

/-! ### Keys -/

theorem lowestHeldKey_none {s : State} (h : ∀ k ≤ s.cfg.fx0aKeyMax.val, s.key k = false) : lowestHeldKey s = none := by
  simp only [lowestHeldKey, List.find?_eq_none, List.mem_range]
  intro k hk
  simp [h k (by omega)]

theorem lowestHeldKey_some {s : State} {k : Nat} (hk : k ≤ s.cfg.fx0aKeyMax.val) (hh : s.key k = true)
    (hlow : ∀ j < k, s.key j = false) : lowestHeldKey s = some k := by
  simp only [lowestHeldKey, List.find?_range_eq_some, List.mem_range]
  exact ⟨hh, by omega, fun j hj => by simp [hlow j hj]⟩

theorem lowestHeldKey_cases (s : State) :
    (lowestHeldKey s = none ∧ ∀ k ≤ s.cfg.fx0aKeyMax.val, s.key k = false) ∨
      ∃ k, lowestHeldKey s = some k ∧ k ≤ s.cfg.fx0aKeyMax.val ∧ s.key k = true ∧ ∀ j < k, s.key j = false := by
  cases h : lowestHeldKey s with
  | none =>
    refine .inl ⟨rfl, fun k hk => ?_⟩
    simp only [lowestHeldKey, List.find?_eq_none, List.mem_range] at h
    simpa using h k (by omega)
  | some k =>
    refine .inr ⟨k, rfl, ?_⟩
    simp only [lowestHeldKey, List.find?_range_eq_some, List.mem_range] at h
    exact ⟨by omega, h.1, fun j hj => by simpa using h.2.2 j hj⟩

theorem keyIndex_mask {cfg : Config} (h : cfg.keyIndexMode = .mask) (v : Byte) : keyIndex cfg v = .ok (v.toNat % 16) := by
  simp [keyIndex, h]

theorem keyIndex_fault {cfg : Config} (h : cfg.keyIndexMode = .fault) (v : Byte) :
    keyIndex cfg v = if v.toNat ≤ 15 then .ok v.toNat else .error (.invalidIndex v) := by
  simp [keyIndex, h]

/-- The key tests when the index is accepted: always under MASK, up to 15 under FAULT (44_timers_keys.md R200). -/
theorem skipOnKey_ok {s : State} {x : RegIdx} (h : s.cfg.keyIndexMode = .mask ∨ (s.readV x).toNat ≤ 15) (b : Bool) :
    skipOnKey b x s = complete (s.skipIf (s.key ((s.readV x).toNat % 16) == b)) := by
  unfold skipOnKey
  cases hm : s.cfg.keyIndexMode with
  | mask => rw [keyIndex_mask hm]; rfl
  | fault =>
    have h15 : (s.readV x).toNat ≤ 15 := by
      rcases h with h | h
      · simp [hm] at h
      · exact h
    rw [keyIndex_fault hm, if_pos h15, Nat.mod_eq_of_lt (by omega)]
    rfl

theorem skipOnKey_error {s : State} {x : RegIdx} (hm : s.cfg.keyIndexMode = .fault) (h : (s.readV x).toNat > 15)
    (b : Bool) : skipOnKey b x s = raise (.invalidIndex (s.readV x)) s := by
  unfold skipOnKey
  rw [keyIndex_fault hm, if_neg (by omega)]
  rfl

/-! ### Transfers -/

theorem storeAtIndex_in {s : State} {bs : List Byte} (h : TransferInRange s.cfg s.i.toNat bs.length)
    (hsmall : bs.length ≤ 4096) :
    ∃ m, storeAtIndex bs s = complete ({ s with mem := m }).advance ∧
      (Memory.WF s.cfg.font s.mem → Memory.WF s.cfg.font m) ∧
      (∀ a, OutsideTransfer s.cfg s.i.toNat bs.length a → ({ s with mem := m } : State).readByte a = s.readByte a) ∧
      ∀ k < bs.length, ∀ a, AddressIs s.cfg (s.i.toNat + k) a →
        bs[k]? = some (({ s with mem := m } : State).readByte a) := by
  obtain ⟨t, h1, h2, h3, h4, h5⟩ := storeBytes_in h hsmall
  refine ⟨t.mem, ?_, h3, ?_, ?_⟩
  · rw [storeAtIndex, h1, ← h2]
    rfl
  · rw [← h2]; exact h4
  · rw [← h2]; exact h5

theorem storeAtIndex_out {s : State} {bs : List Byte} (h : ¬ TransferInRange s.cfg s.i.toNat bs.length) :
    storeAtIndex bs s = raise (.invalidAddress (firstOutOfRange s.i.toNat)) s := by
  rw [storeAtIndex, storeBytes_out h]
  rfl

theorem execLdRegs_in {s : State} {x : RegIdx} (h : TransferInRange s.cfg s.i.toNat (x.val + 1)) :
    ∃ bs, bs.length = x.val + 1 ∧
      (∀ k < x.val + 1, ∃ a, AddressIs s.cfg (s.i.toNat + k) a ∧ bs[k]? = some (s.readByte a)) ∧
      execLdRegs x s = complete (s.writeRegsFrom 0 bs).advance := by
  obtain ⟨bs, h1, h2, h3⟩ := loadBytes_in h
  exact ⟨bs, h2, h3, by rw [execLdRegs, h1]; rfl⟩

theorem execLdRegs_out {s : State} {x : RegIdx} (h : ¬ TransferInRange s.cfg s.i.toNat (x.val + 1)) :
    execLdRegs x s = raise (.invalidAddress (firstOutOfRange s.i.toNat)) s := by
  rw [execLdRegs, loadBytes_out h]
  rfl

theorem execDrw_in {s : State} {n : Nat} (h : TransferInRange s.cfg s.i.toNat n) (x y : RegIdx) :
    ∃ rows, SpriteRows s n rows ∧
      execDrw x y n s = complete (drawSprite s (s.readV x).toNat (s.readV y).toNat rows).advance := by
  obtain ⟨rows, h1, h2, h3⟩ := loadBytes_in h
  exact ⟨rows, ⟨h2, h3⟩, by rw [execDrw, h1]; rfl⟩

theorem execDrw_out {s : State} {n : Nat} (h : ¬ TransferInRange s.cfg s.i.toNat n) (x y : RegIdx) :
    execDrw x y n s = raise (.invalidAddress (firstOutOfRange s.i.toNat)) s := by
  rw [execDrw, loadBytes_out h]
  rfl

/-- The rows of a sprite are determined. -/
theorem SpriteRows.unique {s : State} {n : Nat} {r₁ r₂ : List Byte} (h₁ : SpriteRows s n r₁) (h₂ : SpriteRows s n r₂) :
    r₁ = r₂ := by
  apply List.ext_getElem?
  intro k
  by_cases hk : k < n
  · obtain ⟨a, ha, he⟩ := h₁.2 k hk
    obtain ⟨b, hb, hf⟩ := h₂.2 k hk
    have hab : a = b := by
      have := ha.symm.trans hb
      injection this
    rw [he, hf, hab]
  · rw [List.getElem?_eq_none (by rw [h₁.1]; omega), List.getElem?_eq_none (by rw [h₂.1]; omega)]

/-- A sprite has rows only when all its addresses exist. -/
theorem SpriteRows.inRange {s : State} {n : Nat} {rows : List Byte} (h : SpriteRows s n rows) :
    TransferInRange s.cfg s.i.toNat n := by
  cases hm : s.cfg.addrMode with
  | wrap => simp [TransferInRange, hm]
  | fault =>
    simp only [TransferInRange, hm]
    by_contra hn
    obtain ⟨a, ha, -⟩ := h.2 (n - 1) (by omega)
    rw [AddressIs, formAddr_fault hm, if_neg (by omega)] at ha
    cases ha

/-! ### The stack -/

/-- A push writes the entry at SP and no other. -/
theorem State.stackEntry_push {s : State} (h : s.sp.toNat < 16) (w : Word) (j : Nat) :
    (s.push w).stackEntry j = if j = s.sp.toNat then w else s.stackEntry j := by
  unfold State.stackEntry
  rw [State.push_stack]
  split
  · subst j; simp [h]
  · rw [Vector.getElem?_setIfInBounds_ne (by omega)]

/-- No commit stops the machine. -/
theorem commit_next (s : State) (e : Except Event State) : ∃ t, commit s e = .next t := by
  cases e <;> exact ⟨_, rfl⟩

/-! ### The tick -/

theorem tickTimers_coupled {s : State} (h : s.cfg.timerMode = .coupled) : tickTimers s = timerDecrement s := by
  simp [tickTimers, h]

theorem tickTimers_independent {s : State} (h : s.cfg.timerMode = .independent) : tickTimers s = s := by
  simp [tickTimers, h]

/-- The tick's decrement changes DT and ST and nothing else. -/
theorem tickTimers_eq (s : State) : tickTimers s = { s with dt := (tickTimers s).dt, st := (tickTimers s).st } := by
  unfold tickTimers
  split <;> rfl

/-- The tick's decrement does not change what is fetched. -/
theorem fetch_tickTimers (s : State) : fetch (tickTimers s) = fetch s := by
  rw [tickTimers_eq]
  exact fetch_congr rfl rfl rfl

theorem step_running {s : State} (h : s.run = .running) : step s = fetchDecodeExecute (tickTimers s) := by
  simp [step, tick, h]

theorem step_not_running {s : State} (h : s.run ≠ .running) : step s = complete s := by
  unfold step tick
  split
  · exact absurd ‹_› h
  · rfl
  · rfl

/-- What a running tick does, by what it fetches (30_encoding.md R70). -/
theorem step_cases {s : State} (h : s.run = .running) :
    (∃ e, fetch s = .error e ∧ step s = raise e (tickTimers s)) ∨
    (∃ op w, fetch s = .ok op ∧ decode op = .unassigned w ∧ step s = raise (.unassigned w) (tickTimers s)) ∨
    ∃ op i, fetch s = .ok op ∧ decode op = .instr i ∧ step s = exec i (tickTimers s) := by
  rw [step_running h]
  unfold fetchDecodeExecute
  rw [fetch_tickTimers]
  cases hf : fetch s with
  | error e => exact .inl ⟨e, rfl, rfl⟩
  | ok op =>
    cases hd : decode op with
    | unassigned w => exact .inr (.inl ⟨op, w, rfl, hd, by simp [hd, execDecoded]⟩)
    | instr i => exact .inr (.inr ⟨op, i, rfl, hd, by simp [hd, execDecoded]⟩)

theorem countDown_toNat (b : Byte) : (countDown b).toNat = b.toNat - 1 := by
  unfold countDown
  split
  · rename_i h
    simp [h]
  · rename_i h
    have hb : b.toNat ≠ 0 := fun h0 => h (BitVec.eq_of_toNat_eq (by simpa using h0))
    rw [BitVec.toNat_sub]
    have := b.isLt
    show (2 ^ 8 - 1 + b.toNat) % 2 ^ 8 = b.toNat - 1
    omega

/-! ### Loading a ROM (70_reset_and_hazards.md R243) -/

theorem copyRom_eq (s : State) (a : Nat) (rom : List Byte) : copyRom s a rom = { s with mem := (copyRom s a rom).mem } := by
  induction rom generalizing s a with
  | nil => rfl
  | cons b bs ih => rw [copyRom, ih, State.writeByte_eq]

theorem copyRom_wf {s : State} (h : Memory.WF s.cfg.font s.mem) (a : Nat) (rom : List Byte) :
    Memory.WF s.cfg.font (copyRom s a rom).mem := by
  induction rom generalizing s a with
  | nil => exact h
  | cons b bs ih =>
    have := ih (s := s.writeByte a b) (by rw [State.writeByte_cfg]; exact State.writeByte_wf h a b) (a + 1)
    rwa [State.writeByte_cfg] at this

theorem readByte_copyRom (s : State) (a : Nat) (rom : List Byte) (h : a + rom.length ≤ 4096) (c : Nat) :
    (copyRom s a rom).readByte c = if h : a ≤ c ∧ c < a + rom.length then rom[c - a]'(by omega) else s.readByte c := by
  induction rom generalizing s a with
  | nil =>
    rw [dif_neg (by simp)]
    rfl
  | cons b bs ih =>
    simp only [List.length_cons] at h ⊢
    rw [copyRom, ih _ _ (by omega), State.readByte_writeByte _ (by omega)]
    by_cases h1 : c = a
    · subst h1
      rw [dif_neg (by omega), if_pos rfl, dif_pos (by omega)]
      simp
    · by_cases h2 : a + 1 ≤ c ∧ c < a + 1 + bs.length
      · rw [dif_pos h2, dif_pos (by omega)]
        simp [show c - a = c - (a + 1) + 1 by omega]
      · rw [dif_neg h2, dif_neg (by omega), if_neg h1]

end Sys2Proof.Machine
end

