-- ==== Sys2Proof/Laws/PerInstr.lean ====
section
/-! SUPPORT. For each instruction: its word fits its own row of opcode_table.json. -/

namespace Sys2Proof.Laws.EncodingFitsRow

/-- The word of an instruction has every fixed bit of its row (30_encoding.md R74, R79, R81). -/
def Statement (i : Instr) : Prop := i.row.fits (encode i) = true

theorem cls : Statement .cls := by unfold Statement; decide
theorem ret : Statement .ret := by unfold Statement; decide
theorem jp (nnn : Word) : Statement (.jp nnn) := by
  unfold Statement Instr.row encode
  rw [fits_F000 _ _ 0x1 (by decide), decide_eq_true_eq, slice_eq_iff, formNNN_toNat (by decide)]
  show _ = 1
  omega

theorem call (nnn : Word) : Statement (.call nnn) := by
  unfold Statement Instr.row encode
  rw [fits_F000 _ _ 0x2 (by decide), decide_eq_true_eq, slice_eq_iff, formNNN_toNat (by decide)]
  show _ = 2
  omega

theorem seImm (x : RegIdx) (kk : Byte) : Statement (.seImm x kk) := by
  unfold Statement Instr.row encode
  rw [fits_F000 _ _ 0x3 (by decide), decide_eq_true_eq, slice_eq_iff, formXKK_toNat (by decide)]
  have := x.isLt
  have := kk.isLt
  show _ = 3
  omega

theorem sneImm (x : RegIdx) (kk : Byte) : Statement (.sneImm x kk) := by
  unfold Statement Instr.row encode
  rw [fits_F000 _ _ 0x4 (by decide), decide_eq_true_eq, slice_eq_iff, formXKK_toNat (by decide)]
  have := x.isLt
  have := kk.isLt
  show _ = 4
  omega

theorem seReg (x : RegIdx) (y : RegIdx) : Statement (.seReg x y) := by
  unfold Statement Instr.row encode
  rw [fits_F00F _ _ 0x5 0x0 (by decide), decide_eq_true_eq, slice_eq_iff, slice_eq_iff, formXYN_toNat (by decide)]
  have := x.isLt
  have := y.isLt
  show _ = 5 ∧ _ = 0
  omega

theorem ldImm (x : RegIdx) (kk : Byte) : Statement (.ldImm x kk) := by
  unfold Statement Instr.row encode
  rw [fits_F000 _ _ 0x6 (by decide), decide_eq_true_eq, slice_eq_iff, formXKK_toNat (by decide)]
  have := x.isLt
  have := kk.isLt
  show _ = 6
  omega

theorem addImm (x : RegIdx) (kk : Byte) : Statement (.addImm x kk) := by
  unfold Statement Instr.row encode
  rw [fits_F000 _ _ 0x7 (by decide), decide_eq_true_eq, slice_eq_iff, formXKK_toNat (by decide)]
  have := x.isLt
  have := kk.isLt
  show _ = 7
  omega

theorem ldReg (x : RegIdx) (y : RegIdx) : Statement (.ldReg x y) := by
  unfold Statement Instr.row encode
  rw [fits_F00F _ _ 0x8 0x0 (by decide), decide_eq_true_eq, slice_eq_iff, slice_eq_iff, formXYN_toNat (by decide)]
  have := x.isLt
  have := y.isLt
  show _ = 8 ∧ _ = 0
  omega

theorem or (x : RegIdx) (y : RegIdx) : Statement (.or x y) := by
  unfold Statement Instr.row encode
  rw [fits_F00F _ _ 0x8 0x1 (by decide), decide_eq_true_eq, slice_eq_iff, slice_eq_iff, formXYN_toNat (by decide)]
  have := x.isLt
  have := y.isLt
  show _ = 8 ∧ _ = 1
  omega

theorem and (x : RegIdx) (y : RegIdx) : Statement (.and x y) := by
  unfold Statement Instr.row encode
  rw [fits_F00F _ _ 0x8 0x2 (by decide), decide_eq_true_eq, slice_eq_iff, slice_eq_iff, formXYN_toNat (by decide)]
  have := x.isLt
  have := y.isLt
  show _ = 8 ∧ _ = 2
  omega

theorem xor (x : RegIdx) (y : RegIdx) : Statement (.xor x y) := by
  unfold Statement Instr.row encode
  rw [fits_F00F _ _ 0x8 0x3 (by decide), decide_eq_true_eq, slice_eq_iff, slice_eq_iff, formXYN_toNat (by decide)]
  have := x.isLt
  have := y.isLt
  show _ = 8 ∧ _ = 3
  omega

theorem addReg (x : RegIdx) (y : RegIdx) : Statement (.addReg x y) := by
  unfold Statement Instr.row encode
  rw [fits_F00F _ _ 0x8 0x4 (by decide), decide_eq_true_eq, slice_eq_iff, slice_eq_iff, formXYN_toNat (by decide)]
  have := x.isLt
  have := y.isLt
  show _ = 8 ∧ _ = 4
  omega

theorem sub (x : RegIdx) (y : RegIdx) : Statement (.sub x y) := by
  unfold Statement Instr.row encode
  rw [fits_F00F _ _ 0x8 0x5 (by decide), decide_eq_true_eq, slice_eq_iff, slice_eq_iff, formXYN_toNat (by decide)]
  have := x.isLt
  have := y.isLt
  show _ = 8 ∧ _ = 5
  omega

theorem shr (x : RegIdx) (y : RegIdx) : Statement (.shr x y) := by
  unfold Statement Instr.row encode
  rw [fits_F00F _ _ 0x8 0x6 (by decide), decide_eq_true_eq, slice_eq_iff, slice_eq_iff, formXYN_toNat (by decide)]
  have := x.isLt
  have := y.isLt
  show _ = 8 ∧ _ = 6
  omega

theorem subn (x : RegIdx) (y : RegIdx) : Statement (.subn x y) := by
  unfold Statement Instr.row encode
  rw [fits_F00F _ _ 0x8 0x7 (by decide), decide_eq_true_eq, slice_eq_iff, slice_eq_iff, formXYN_toNat (by decide)]
  have := x.isLt
  have := y.isLt
  show _ = 8 ∧ _ = 7
  omega

theorem shl (x : RegIdx) (y : RegIdx) : Statement (.shl x y) := by
  unfold Statement Instr.row encode
  rw [fits_F00F _ _ 0x8 0xe (by decide), decide_eq_true_eq, slice_eq_iff, slice_eq_iff, formXYN_toNat (by decide)]
  have := x.isLt
  have := y.isLt
  show _ = 8 ∧ _ = 14
  omega

theorem sneReg (x : RegIdx) (y : RegIdx) : Statement (.sneReg x y) := by
  unfold Statement Instr.row encode
  rw [fits_F00F _ _ 0x9 0x0 (by decide), decide_eq_true_eq, slice_eq_iff, slice_eq_iff, formXYN_toNat (by decide)]
  have := x.isLt
  have := y.isLt
  show _ = 9 ∧ _ = 0
  omega

theorem ldIdx (nnn : Word) : Statement (.ldIdx nnn) := by
  unfold Statement Instr.row encode
  rw [fits_F000 _ _ 0xa (by decide), decide_eq_true_eq, slice_eq_iff, formNNN_toNat (by decide)]
  show _ = 10
  omega

theorem jpV0 (nnn : Word) : Statement (.jpV0 nnn) := by
  unfold Statement Instr.row encode
  rw [fits_F000 _ _ 0xb (by decide), decide_eq_true_eq, slice_eq_iff, formNNN_toNat (by decide)]
  show _ = 11
  omega

theorem rnd (x : RegIdx) (kk : Byte) : Statement (.rnd x kk) := by
  unfold Statement Instr.row encode
  rw [fits_F000 _ _ 0xc (by decide), decide_eq_true_eq, slice_eq_iff, formXKK_toNat (by decide)]
  have := x.isLt
  have := kk.isLt
  show _ = 12
  omega

theorem drw (x : RegIdx) (y : RegIdx) (n : Nat) : Statement (.drw x y n) := by
  unfold Statement Instr.row encode
  rw [fits_F000 _ _ 0xd (by decide), decide_eq_true_eq, slice_eq_iff, formXYN_toNat (by decide)]
  have := x.isLt
  have := y.isLt
  show _ = 13
  omega

theorem skp (x : RegIdx) : Statement (.skp x) := by
  unfold Statement Instr.row encode
  rw [fits_F0FF _ _ 0xe 0x9e (by decide), decide_eq_true_eq, slice_eq_iff, slice_eq_iff, formXKK_toNat (by decide)]
  have := x.isLt
  show (_ + 158) / _ % _ = 14 ∧ (_ + 158) / _ % _ = 158
  omega

theorem sknp (x : RegIdx) : Statement (.sknp x) := by
  unfold Statement Instr.row encode
  rw [fits_F0FF _ _ 0xe 0xa1 (by decide), decide_eq_true_eq, slice_eq_iff, slice_eq_iff, formXKK_toNat (by decide)]
  have := x.isLt
  show (_ + 161) / _ % _ = 14 ∧ (_ + 161) / _ % _ = 161
  omega

theorem ldVDt (x : RegIdx) : Statement (.ldVDt x) := by
  unfold Statement Instr.row encode
  rw [fits_F0FF _ _ 0xf 0x7 (by decide), decide_eq_true_eq, slice_eq_iff, slice_eq_iff, formXKK_toNat (by decide)]
  have := x.isLt
  show (_ + 7) / _ % _ = 15 ∧ (_ + 7) / _ % _ = 7
  omega

theorem ldK (x : RegIdx) : Statement (.ldK x) := by
  unfold Statement Instr.row encode
  rw [fits_F0FF _ _ 0xf 0xa (by decide), decide_eq_true_eq, slice_eq_iff, slice_eq_iff, formXKK_toNat (by decide)]
  have := x.isLt
  show (_ + 10) / _ % _ = 15 ∧ (_ + 10) / _ % _ = 10
  omega

theorem ldDtV (x : RegIdx) : Statement (.ldDtV x) := by
  unfold Statement Instr.row encode
  rw [fits_F0FF _ _ 0xf 0x15 (by decide), decide_eq_true_eq, slice_eq_iff, slice_eq_iff, formXKK_toNat (by decide)]
  have := x.isLt
  show (_ + 21) / _ % _ = 15 ∧ (_ + 21) / _ % _ = 21
  omega

theorem ldStV (x : RegIdx) : Statement (.ldStV x) := by
  unfold Statement Instr.row encode
  rw [fits_F0FF _ _ 0xf 0x18 (by decide), decide_eq_true_eq, slice_eq_iff, slice_eq_iff, formXKK_toNat (by decide)]
  have := x.isLt
  show (_ + 24) / _ % _ = 15 ∧ (_ + 24) / _ % _ = 24
  omega

theorem addIdx (x : RegIdx) : Statement (.addIdx x) := by
  unfold Statement Instr.row encode
  rw [fits_F0FF _ _ 0xf 0x1e (by decide), decide_eq_true_eq, slice_eq_iff, slice_eq_iff, formXKK_toNat (by decide)]
  have := x.isLt
  show (_ + 30) / _ % _ = 15 ∧ (_ + 30) / _ % _ = 30
  omega

theorem ldF (x : RegIdx) : Statement (.ldF x) := by
  unfold Statement Instr.row encode
  rw [fits_F0FF _ _ 0xf 0x29 (by decide), decide_eq_true_eq, slice_eq_iff, slice_eq_iff, formXKK_toNat (by decide)]
  have := x.isLt
  show (_ + 41) / _ % _ = 15 ∧ (_ + 41) / _ % _ = 41
  omega

theorem ldB (x : RegIdx) : Statement (.ldB x) := by
  unfold Statement Instr.row encode
  rw [fits_F0FF _ _ 0xf 0x33 (by decide), decide_eq_true_eq, slice_eq_iff, slice_eq_iff, formXKK_toNat (by decide)]
  have := x.isLt
  show (_ + 51) / _ % _ = 15 ∧ (_ + 51) / _ % _ = 51
  omega

theorem stRegs (x : RegIdx) : Statement (.stRegs x) := by
  unfold Statement Instr.row encode
  rw [fits_F0FF _ _ 0xf 0x55 (by decide), decide_eq_true_eq, slice_eq_iff, slice_eq_iff, formXKK_toNat (by decide)]
  have := x.isLt
  show (_ + 85) / _ % _ = 15 ∧ (_ + 85) / _ % _ = 85
  omega

theorem ldRegs (x : RegIdx) : Statement (.ldRegs x) := by
  unfold Statement Instr.row encode
  rw [fits_F0FF _ _ 0xf 0x65 (by decide), decide_eq_true_eq, slice_eq_iff, slice_eq_iff, formXKK_toNat (by decide)]
  have := x.isLt
  show (_ + 101) / _ % _ = 15 ∧ (_ + 101) / _ % _ = 101
  omega

end Sys2Proof.Laws.EncodingFitsRow
end

