-- ==== Sys2Proof/Tests/Slice0.lean ====
section
/-! SUPPORT. Tests: ill-formed terms are refused, words written out bit by bit from the spec's encodings decode, one step
per theorem with the expected result taken from spec/95_test_vectors.md (its V, H and S numbers stand in the comments),
and for each obligation with hypotheses a state that meets them. -/

namespace Sys2Proof.Tests

open Sys2Proof.Machine

/-! ### Helpers -/

/-- The state LOAD leaves after an empty ROM, with the default parameters. -/
def base : State := { State.reset with run := .running }

/-- The same under other parameters. -/
def baseWith (cfg : Config) : State := { State.init cfg with run := .running }

/-- Registers set one by one. -/
def regs (s : State) : List (RegIdx × Byte) → State
  | [] => s
  | (r, b) :: l => regs (s.writeV r b) l

/-- Bytes set one by one. -/
def bytes (s : State) : List (Nat × Byte) → State
  | [] => s
  | (a, b) :: l => bytes (s.writeByte a b) l

/-- `s` with a word at PC. -/
def word (s : State) (w : Nat) : State := s.withFetchWord 16 w

/-- What is seen of the next state, if there is one. -/
def seen {α : Type} (f : State → α) : Outcome → Option α
  | .next t => some (f t)
  | .fault _ => none
  | .refused _ => none

/-- What is seen of one step with a word at PC. -/
def tick {α : Type} (f : State → α) (s : State) (w : Nat) : Option α := seen f (step (word s w))

/-- What is seen of the state and the result of one operation of the interface. -/
def op {α : Type} (f : State → α) (o : IfaceOp) (s : State) : Option (α × IfaceResult) :=
  match transact o s with
  | .next (t, r) => some (f t, r)
  | .fault _ => none
  | .refused _ => none

def fault : Config := { Config.default with addrMode := .fault }
def jumpNoPush : Config := { Config.default with callOverflow := .jumpNoPush }
def shiftVy : Config := { Config.default with shiftSrc := .vy }
def toggle : Config := { Config.default with dirtyUpdate := .toggle }
def independent : Config := { Config.default with timerMode := .independent }
def keyMax15 : Config := { Config.default with fx0aKeyMax := 15 }
def keyFault : Config := { Config.default with keyIndexMode := .fault }

/-- A full stack, every entry 0x200. -/
def fullStack (s : State) : State := { s with sp := 16, stack := Vector.replicate 16 0x200 }

/-! ### Well-formed terms (30_encoding.md R76): each check refuses an ill-formed term and takes the largest it allows -/

theorem test_jp_nnn_of_13_bits_refused :
    (Instr.jp 0x1000).wellFormed = false ∧ (Instr.jp 0xFFF).wellFormed = true := by decide

theorem test_call_nnn_of_13_bits_refused :
    (Instr.call 0x1000).wellFormed = false ∧ (Instr.call 0xFFF).wellFormed = true := by decide

theorem test_ldIdx_nnn_of_13_bits_refused :
    (Instr.ldIdx 0x1000).wellFormed = false ∧ (Instr.ldIdx 0xFFF).wellFormed = true := by decide

theorem test_jpV0_nnn_of_13_bits_refused :
    (Instr.jpV0 0x1000).wellFormed = false ∧ (Instr.jpV0 0xFFF).wellFormed = true := by decide

theorem test_drw_n_of_5_bits_refused :
    (Instr.drw 0 0 16).wellFormed = false ∧ (Instr.drw 0 0 15).wellFormed = true := by decide

/-! ### Decoding: each constructor from a word written out from its format (30_encoding.md R74, R79) -/

theorem test_decode_fix :
    decode 0b0000000011100000 = .instr .cls ∧
    decode 0b0000000011101110 = .instr .ret := by decide

theorem test_decode_nnn :
    decode 0b0001101010111100 = .instr (.jp 0xABC) ∧
    decode 0b0010001101000101 = .instr (.call 0x345) ∧
    decode 0b1010001000101010 = .instr (.ldIdx 0x22A) ∧
    decode 0b1011111100000001 = .instr (.jpV0 0xF01) := by decide

theorem test_decode_xkk :
    decode 0b0011110001011010 = .instr (.seImm 0xC 0x5A) ∧
    decode 0b0100001100010000 = .instr (.sneImm 3 0x10) ∧
    decode 0b0110101000000101 = .instr (.ldImm 0xA 0x05) ∧
    decode 0b0111000111111110 = .instr (.addImm 1 0xFE) ∧
    decode 0b1100100100001111 = .instr (.rnd 9 0x0F) := by decide

theorem test_decode_xyf_skips :
    decode 0b0101000100100000 = .instr (.seReg 1 2) ∧
    decode 0b1001110101100000 = .instr (.sneReg 0xD 6) := by decide

theorem test_decode_xyf_8 :
    decode 0b1000000100100000 = .instr (.ldReg 1 2) ∧
    decode 0b1000001101000001 = .instr (.or 3 4) ∧
    decode 0b1000010101100010 = .instr (.and 5 6) ∧
    decode 0b1000011110000011 = .instr (.xor 7 8) ∧
    decode 0b1000100110100100 = .instr (.addReg 9 0xA) ∧
    decode 0b1000101111000101 = .instr (.sub 0xB 0xC) ∧
    decode 0b1000110111100110 = .instr (.shr 0xD 0xE) ∧
    decode 0b1000111100000111 = .instr (.subn 0xF 0) ∧
    decode 0b1000000100101110 = .instr (.shl 1 2) := by decide

theorem test_decode_xyn :
    decode 0b1101000000010101 = .instr (.drw 0 1 5) ∧
    decode 0b1101111011110000 = .instr (.drw 0xE 0xF 0) := by decide

theorem test_decode_xff_e :
    decode 0b1110001010011110 = .instr (.skp 2) ∧
    decode 0b1110110110100001 = .instr (.sknp 0xD) := by decide

theorem test_decode_xff_f :
    decode 0b1111001100000111 = .instr (.ldVDt 3) ∧
    decode 0b1111010100001010 = .instr (.ldK 5) ∧
    decode 0b1111000100010101 = .instr (.ldDtV 1) ∧
    decode 0b1111001000011000 = .instr (.ldStV 2) ∧
    decode 0b1111111100011110 = .instr (.addIdx 0xF) ∧
    decode 0b1111101000101001 = .instr (.ldF 0xA) ∧
    decode 0b1111001000110011 = .instr (.ldB 2) ∧
    decode 0b1111010001010101 = .instr (.stRegs 4) ∧
    decode 0b1111011001100101 = .instr (.ldRegs 6) := by decide

/-- V15, V45, V83 to V87 -/
theorem test_decode_unassigned :
    [0x0000, 0x0123, 0x01E0, 0x5121, 0x8128, 0x9001, 0xE5A0, 0xF0FF].all (fun op => decode op == .unassigned op) = true := by decide

theorem test_decode_table_word :
    decodeTableWord 16 0x3310 = some (.seImm 3 0x10) ∧ decodeTableWord 16 0x5121 = none := by decide

/-- R75 -/
theorem test_encode :
    encode (.drw 0 1 5) = 0xD015 ∧ encode (.ldB 2) = 0xF233 ∧ encode (.addReg 1 2) = 0x8124 ∧ encode (.ldIdx 0x22A) = 0xA22A := by decide

theorem test_with_fetch_word_runs_after_reset :
    seen (fun t => (t.readV 0xA, t.pc, t.run)) (step (State.reset.withFetchWord 16 0x6A05)) = some (5, 0x202, .running) := by decide

/-! ### Reset (10_state.md R38) -/

/-- 20_memory.md R52: the first byte of glyph 0, the last of glyph F, and the byte after the font -/
theorem test_reset_font :
    State.reset.readByte 0 = 0xF0 ∧ State.reset.readByte 79 = 0x80 ∧ State.reset.readByte 80 = 0 := by decide

/-- 00_scope.md R8: a positive interval -/
theorem test_reset_speed : State.reset.speed = Config.default.speedMs.val ∧ 0 < State.reset.speed := by decide

theorem test_reset_pc : State.reset.pc = 0x200 ∧ State.reset.run = .idle := by decide

/-! ### Control flow -/

/-- V1 -/
theorem test_ret :
    tick (fun t => (t.pc, t.sp, t.event)) { base with sp := 1, stack := base.stack.set 0 0x204 } 0x00EE = some (0x206, 0, .evNone) := by decide

/-- V2 -/
theorem test_ret_empty :
    tick (fun t => (t.pc, t.sp, t.event)) base 0x00EE = some (0x200, 0, .stackUnderflow 0x200) := by decide

/-- V4 -/
theorem test_jp : tick (fun t => (t.pc, t.event)) base 0x1ABC = some (0xABC, .evNone) := by decide

/-- V6 -/
theorem test_call :
    tick (fun t => (t.pc, t.sp, t.stackEntry 0)) { base with pc := 0x204 } 0x2210 = some (0x210, 1, 0x204) := by decide

/-- V7 -/
theorem test_call_full :
    tick (fun t => (t.pc, t.sp, t.event)) (fullStack base) 0x2300 = some (0x200, 16, .stackOverflow 0x200) := by decide

/-- V93 -/
theorem test_call_full_jump_no_push :
    tick (fun t => (t.pc, t.sp, t.event)) (fullStack (baseWith jumpNoPush)) 0x2300 = some (0x300, 16, .stackOverflow 0x200) := by decide

/-- V8 -/
theorem test_seImm_equal : tick (State.pc) (regs base [(3, 0x10)]) 0x3310 = some 0x204 := by decide

/-- V9 -/
theorem test_seImm_differs : tick (State.pc) (regs base [(3, 0x11)]) 0x3310 = some 0x202 := by decide

/-- V11 -/
theorem test_sneImm_differs : tick (State.pc) (regs base [(3, 0x11)]) 0x4310 = some 0x204 := by decide

/-- V12 -/
theorem test_sneImm_equal : tick (State.pc) (regs base [(3, 0x10)]) 0x4310 = some 0x202 := by decide

/-- V13 -/
theorem test_seReg_equal : tick (State.pc) (regs base [(1, 7), (2, 7)]) 0x5120 = some 0x204 := by decide

/-- V14 -/
theorem test_seReg_differs : tick (State.pc) (regs base [(1, 7), (2, 8)]) 0x5120 = some 0x202 := by decide

/-- V16 -/
theorem test_sneReg_differs : tick (State.pc) (regs base [(1, 7), (2, 8)]) 0x9120 = some 0x204 := by decide

/-- V17 -/
theorem test_sneReg_same : tick (State.pc) (regs base [(3, 9)]) 0x9330 = some 0x202 := by decide

/-- V18 -/
theorem test_jpV0 : tick (State.pc) (regs base [(0, 4)]) 0xB300 = some 0x304 := by decide

/-- V19 -/
theorem test_jpV0_wraps : tick (State.pc) (regs base [(0, 0xFF)]) 0xBFFF = some 0x0FE := by decide

/-- V20 -/
theorem test_skip_wraps : tick (State.pc) { base with pc := 0xFFE } 0x3000 = some 0x002 := by decide

/-- V92 -/
theorem test_skip_under_fault : tick (State.pc) { baseWith fault with pc := 0xFFE } 0x3000 = some 0x1002 := by decide

/-! ### Loads and arithmetic -/

/-- V21 -/
theorem test_ldImm : tick (fun t => (t.readV 0xA)) (regs base []) 0x6A05 = some (5) := by decide

/-- V22 -/
theorem test_addImm_keeps_vf :
    tick (fun t => (t.readV 1, t.readV 0xF)) (regs base [(1, 0xFF), (0xF, 7)]) 0x7102 = some (1, 7) := by decide

/-- V23 -/
theorem test_addImm_vf : tick (fun t => (t.readV 0xF)) (regs base [(0xF, 0xFF)]) 0x7F01 = some (0) := by decide

/-- V24 -/
theorem test_ldReg : tick (fun t => (t.readV 1)) (regs base [(2, 0x33)]) 0x8120 = some (0x33) := by decide

/-- V25 -/
theorem test_or_keeps_vf :
    tick (fun t => (t.readV 1, t.readV 0xF)) (regs base [(1, 0x0F), (2, 0xF0), (0xF, 5)]) 0x8121 = some (0xFF, 5) := by decide

/-- V26 -/
theorem test_and : tick (fun t => (t.readV 1)) (regs base [(1, 0x3C), (2, 0x0F)]) 0x8122 = some (0x0C) := by decide

/-- V27 -/
theorem test_xor : tick (fun t => (t.readV 1)) (regs base [(1, 0xFF), (2, 0x0F)]) 0x8123 = some (0xF0) := by decide

/-- V31 -/
theorem test_addReg_carry :
    tick (fun t => (t.readV 1, t.readV 0xF)) (regs base [(1, 0xFF), (2, 0xFF)]) 0x8124 = some (0xFE, 1) := by decide

/-- V32 -/
theorem test_addReg_vf_is_the_carry :
    tick (fun t => (t.readV 0xF)) (regs base [(0xF, 0x80), (1, 0x90)]) 0x8F14 = some (1) := by decide

/-- V35 -/
theorem test_sub_equal_is_no_flag :
    tick (fun t => (t.readV 1, t.readV 0xF)) (regs base [(1, 5), (2, 5)]) 0x8125 = some (0, 0) := by decide

/-- V36 -/
theorem test_sub_greater :
    tick (fun t => (t.readV 1, t.readV 0xF)) (regs base [(1, 6), (2, 5)]) 0x8125 = some (1, 1) := by decide

/-- V39 -/
theorem test_shr_vf_is_the_bit : tick (fun t => (t.readV 0xF)) (regs base [(0xF, 3)]) 0x8F06 = some (1) := by decide

/-- V94 -/
theorem test_shr_source_vy :
    tick (fun t => (t.readV 1, t.readV 0xF)) (regs (baseWith shiftVy) [(1, 0xFF), (2, 4)]) 0x8126 = some (2, 0) := by decide

/-- V40 -/
theorem test_subn :
    tick (fun t => (t.readV 1, t.readV 0xF)) (regs base [(1, 1), (2, 0x10)]) 0x8127 = some (0x0F, 1) := by decide

/-- V41 -/
theorem test_subn_borrow :
    tick (fun t => (t.readV 1, t.readV 0xF)) (regs base [(1, 1), (2, 0)]) 0x8127 = some (0xFF, 0) := by decide

/-- V43 -/
theorem test_shl : tick (fun t => (t.readV 1, t.readV 0xF)) (regs base [(1, 0x81)]) 0x810E = some (2, 1) := by decide

/-- V95 -/
theorem test_shl_source_vy :
    tick (fun t => (t.readV 1, t.readV 0xF)) (regs (baseWith shiftVy) [(1, 0), (2, 0x81)]) 0x812E = some (2, 1) := by decide

/-- V46, with the byte drawn given -/
theorem test_rnd_masks :
    seen (fun t => (t.readV 3, t.pc, t.draws)) (rndWith 0xA7 3 0x0F base) = some (7, 0x202, 1) := by decide

/-- V47 -/
theorem test_rnd_mask_zero : seen (fun t => (t.readV 3, t.pc)) (rndWith 0xA7 3 0x00 base) = some (0, 0x202) := by decide

theorem test_rnd_draws_the_free_byte : exec (.rnd 3 0x0F) base = rndWith (Config.rndByte 0) 3 0x0F base := by rfl

/-! ### The index register and memory -/

/-- V48, S1 -/
theorem test_ldIdx : tick (fun t => (t.i, t.pc)) base 0xA22A = some (0x22A, 0x202) := by decide

/-- V50 -/
theorem test_addIdx_wraps :
    tick (fun t => (t.i, t.readV vf)) { regs base [(2, 1)] with i := 0xFFF } 0xF21E = some (0x000, 1) := by decide

/-- V89 -/
theorem test_addIdx_under_fault :
    tick (fun t => (t.i, t.readV vf)) { regs (baseWith fault) [(2, 1)] with i := 0xFFF } 0xF21E = some (0x1000, 1) := by decide

/-- V52 -/
theorem test_ldF : tick (State.i) (regs base [(0, 0x0A)]) 0xF029 = some 0x032 := by decide

/-- V53 -/
theorem test_ldF_not_masked : tick (State.i) (regs base [(0, 0xFF)]) 0xF029 = some 0x4FB := by decide

/-- V54 -/
theorem test_ldB :
    tick (fun t => (t.readByte 0x300, t.readByte 0x301, t.readByte 0x302)) { regs base [(0, 0xFE)] with i := 0x300 } 0xF033 = some (2, 5, 4) := by decide

/-- V57 -/
theorem test_ldB_wraps :
    tick (fun t => (t.readByte 0xFFF, t.readByte 0, t.readByte 1)) { regs base [(0, 0x7B)] with i := 0xFFF } 0xF033 = some (1, 2, 3) := by decide

/-- V60 -/
theorem test_stRegs_wraps :
    tick (fun t => (t.readByte 0xFFE, t.readByte 0xFFF, t.readByte 0, t.readByte 1, t.i)) { regs base [(0, 0x11), (1, 0x22), (2, 0x33), (3, 0x44)] with i := 0xFFE } 0xF355 = some (0x11, 0x22, 0x33, 0x44, 0xFFE) := by decide

/-- V88 -/
theorem test_stRegs_raises_before_writing :
    tick (fun t => (t.readByte 0xFFE, t.pc, t.event)) { regs (baseWith fault) [(0, 0x11)] with i := 0xFFE } 0xF355 = some (0, 0x200, .invalidAddress 0x1000) := by decide

/-- V61 -/
theorem test_ldRegs :
    tick (fun t => (t.readV 0, t.readV 1, t.readV 2, t.readV 3)) { bytes base [(0x300, 2), (0x301, 5), (0x302, 4), (0x303, 9)] with i := 0x300 } 0xF265 = some (2, 5, 4, 0) := by decide

/-- V62 -/
theorem test_ldRegs_font :
    tick (fun t => (t.readV 0, t.readV 1, t.readV 0xE, t.readV 0xF)) base 0xFF65 = some (0xF0, 0x90, 0xF0, 0xF0) := by decide

/-! ### The display -/

/-- V63 -/
theorem test_cls :
    tick (fun t => (Grid.get t.fb 63 31, Grid.get t.dirty 0 0, t.fullRedraw)) { base with fb := Grid.set base.fb 63 31 true, dirty := Grid.set base.dirty 0 0 true } 0x00E0 = some (false, false, true) := by decide

/-- V66 -/
theorem test_drw_clips :
    tick (fun t => (Grid.get t.fb 60 31, Grid.get t.fb 63 31, Grid.get t.fb 0 31, Grid.get t.fb 0 0, t.readV vf)) { regs (bytes base [(0x300, 0xFF)]) [(0, 60), (1, 31)] with i := 0x300 } 0xD011 = some (true, true, false, false, 0) := by decide

/-- V68 -/
theorem test_drw_collides :
    tick (fun t => (Grid.get t.fb 0 0, Grid.get t.fb 7 0, Grid.get t.dirty 7 0, t.readV vf)) { bytes base [(0x300, 0x81)] with i := 0x300, fb := Grid.set base.fb 0 0 true } 0xD011 = some (false, true, true, 1) := by decide

/-! ### Timers and keys -/

/-- V70 -/
theorem test_ldVDt : tick (fun t => (t.readV 3, t.dt)) { base with dt := 0x20 } 0xF307 = some (0x1F, 0x1F) := by decide

/-- V99 -/
theorem test_ldVDt_independent :
    tick (fun t => (t.readV 3, t.dt)) { baseWith independent with dt := 0x20 } 0xF307 = some (0x20, 0x20) := by decide

/-- V72 -/
theorem test_ldDtV : tick (State.dt) (regs base [(0, 5)]) 0xF015 = some 5 := by decide

/-- V73 -/
theorem test_ldStV : tick (fun t => (t.st, soundActive t)) (regs base [(1, 3)]) 0xF118 = some (3, true) := by decide

/-- V74 -/
theorem test_ldStV_zero :
    tick (fun t => (t.st, soundActive t)) { base with st := 9 } 0xF118 = some (0, false) := by decide

/-- V79 -/
theorem test_skp_masked_key :
    tick (State.pc) (regs { base with keys := base.keys.set 3 true } [(2, 0x13)]) 0xE29E = some 0x204 := by decide

/-- V98 -/
theorem test_skp_index_fault :
    tick (fun t => (t.pc, t.event)) (regs (baseWith keyFault) [(2, 0x13)]) 0xE29E = some (0x200, .invalidIndex 0x13) := by decide

/-- V77 -/
theorem test_sknp_no_key : tick (State.pc) (regs base [(2, 5)]) 0xE2A1 = some 0x204 := by decide

/-- V78 -/
theorem test_sknp_pressed :
    tick (State.pc) (regs { base with keys := base.keys.set 5 true } [(2, 5)]) 0xE2A1 = some 0x202 := by decide

/-- V80 -/
theorem test_ldK_lowest :
    tick (fun t => (t.readV 5, t.pc)) { base with keys := (base.keys.set 3 true).set 7 true } 0xF50A = some (3, 0x202) := by decide

/-- V81 and V82: key 15 is outside the default range, and DT still falls -/
theorem test_ldK_waits :
    tick (fun t => (t.dt, t.pc, t.event)) { base with keys := base.keys.set 15 true, dt := 4 } 0xF50A = some (3, 0x200, .keyWait 5) := by decide

/-! ### The tick and the interface -/

/-- V45 -/
theorem test_unassigned_tick :
    tick (fun t => (t.pc, t.event.code, t.event.info)) base 0x8128 = some (0x200, 1, 0x8128) := by decide

/-- V91 -/
theorem test_fetch_fault_at_the_top :
    seen (fun t => (t.pc, t.event)) (step { baseWith fault with pc := 0xFFF }) = some (0xFFF, .invalidAddress 0x1000) := by decide

/-- H13 -/
theorem test_timers_stop_at_zero :
    tick (fun t => (t.dt, t.st, soundActive t, t.pc)) { base with st := 1 } 0x1200 = some (0, 0, false, 0x200) := by decide

/-- H4 -/
theorem test_tick_outside_running :
    seen (fun t => (t.dt, t.pc, t.event)) (step { word { base with dt := 3 } 0x6A05 with run := .paused }) = some (3, 0x200, .evNone) := by decide

/-- H10, S11 -/
theorem test_load :
    (op (fun t => (t.readByte 0x200, t.readByte 0x203, t.pc, t.run, t.key 4)) (.load [0x00, 0xE0, 0x12, 0x01]) { State.reset with keys := State.reset.keys.set 4 true }) = some ((0, 1, 0x200, .running, false), .loadOk) := by decide

/-- H11 -/
theorem test_key_press_out_of_range :
    op (fun t => t.keys.toList) (.keyPress 16) base = some (base.keys.toList, .keyInvalidIndex) := by decide

/-- H17 -/
theorem test_timer_tick_independent :
    op State.dt .timerTick { baseWith independent with dt := 2 } = some (1, .done) := by decide

/-- H18 -/
theorem test_timer_tick_coupled : op State.dt .timerTick { base with dt := 2 } = some (2, .done) := by decide

/-- H15 -/
theorem test_fb_read_off_screen : op State.pc (.fbRead 64 0) base = some (0x200, .cell false false) := by decide

/-! ### Witnesses: states and operands that meet the hypotheses of each obligation, at the ends of their ranges -/

theorem test_witness_DecodeOfEncodeIsTheInstruction :
    (Instr.drw 15 15 15).wellFormed = true ∧ (Instr.jp 0xFFF).wellFormed = true ∧ (Instr.seImm 15 0xFF).wellFormed = true := by
  decide

theorem test_witness_EncodeOfDecodeIsTheWord :
    decode 0xDFFF = .instr (.drw 15 15 15) ∧ decode 0x00E0 = .instr .cls := by decide

theorem test_witness_DecodeFollowsTheOpcodeTable :
    (Instr.drw 0 0 0).row ∈ opcodeTable ∧ (Instr.drw 0 0 0).row.fits 0xDFFF = true ∧
    decode 0xDFFF = .instr (.drw 15 15 15) ∧ ∀ r ∈ opcodeTable, r.fits 0x0000 = false := by decide

theorem test_witness_UnassignedWordsAreExactlyTheListedOnes :
    [0x0000, 0x00DF, 0x00E1, 0x00EF, 0x0FFF, 0x5001, 0x8008, 0x800D, 0x800F, 0x9FFF, 0xE09D, 0xE0A2, 0xF000, 0xF0FF].all
      (fun op => decode op == .unassigned op) = true ∧
    decode 0x5000 = .instr (.seReg 0 0) ∧ decode 0x800E = .instr (.shl 0 0) ∧ decode 0x1000 = .instr (.jp 0) := by decide

theorem test_witness_StepRunsTheDecodedInstruction :
    (word base 0x6A05).run = .running ∧ AddressIs (word base 0x6A05).cfg 0x200 0x200 ∧
    AddressIs (word base 0x6A05).cfg 0x201 0x201 ∧ (word base 0x6A05).pc.toNat = 0x200 ∧
    decode (wordOfBytes ((word base 0x6A05).readByte 0x200) ((word base 0x6A05).readByte 0x201)) = .instr (.ldImm 0xA 5) :=
  ⟨rfl, rfl, rfl, rfl, rfl⟩

theorem test_witness_UnassignedWordIsANoOpTick :
    base.run = .running ∧ fetch base = .ok 0x0000 ∧ decode 0x0000 = .unassigned 0x0000 := ⟨rfl, rfl, rfl⟩

theorem test_witness_FetchIsBigEndian :
    base.cfg.addrMode = .wrap ∧ fault.addrMode = .fault ∧ (0xFFE : Word).toNat < 0xFFF ∧ (0xFFF : Word).toNat = 0xFFF ∧
    (0x1000 : Word).toNat > 0xFFF ∧ (baseWith fault).run = .running ∧
    fetch { baseWith fault with pc := 0xFFF } = .error (.invalidAddress 0x1000) ∧
    fetch { baseWith fault with pc := 0x1000 } = .error (.invalidAddress 0x1000) :=
  ⟨rfl, rfl, by decide, rfl, by decide, rfl, rfl, rfl⟩

theorem test_witness_AddressesAndPcAreNormalised :
    Config.default.addrMode = .wrap ∧ fault.addrMode = .fault ∧ formAddr fault 0xFFF = .ok 0xFFF ∧
    formAddr fault 0x1000 = .error (.invalidAddress 0x1000) ∧ formAddr Config.default 0x1000 = .ok 0 :=
  ⟨rfl, rfl, rfl, rfl, rfl⟩

theorem test_witness_TimersCountDownOncePerTick :
    base.cfg.timerMode = .coupled ∧ base.run = .running ∧ seen (fun t => decide (t.event ≠ .evNone)) (step base) = some true := by
  decide

theorem test_witness_TimerTickAndSoundActive :
    (baseWith independent).cfg.timerMode = .independent ∧ (baseWith independent).run = .running ∧
    base.cfg.timerMode = .coupled ∧ State.reset.run ≠ .running ∧ soundActive { base with st := 1 } = true ∧
    soundActive (timerDecrement { base with st := 1 }) = false := by decide

/-- A state stopped by each kind of form of R255: a word that is not assigned, 00EE, 2nnn, Fx0A, an address error, a key
index error, a jump to itself and a failing fetch. -/
theorem test_witness_StoppedMachineStaysStopped :
    StoppedAt 0x200 base ∧ StoppedAt 0x200 (word base 0x00EE) ∧ StoppedAt 0x200 (word (fullStack base) 0x2300) ∧
    StoppedAt 0x200 (word { baseWith fault with i := 0xFFE } 0xF033) ∧
    StoppedAt 0x200 (word (regs (baseWith keyFault) [(2, 0x13)]) 0xE29E) ∧ StoppedAt 0x200 (word base 0x1200) ∧
    StoppedAt 0xFFF { baseWith fault with pc := 0xFFF } := by
  refine ⟨⟨rfl, rfl, trivial⟩, ⟨rfl, rfl, ?_⟩, ⟨rfl, rfl, ?_⟩, ⟨rfl, rfl, ?_⟩, ⟨rfl, rfl, ?_⟩, ⟨rfl, rfl, ?_⟩, ⟨rfl, rfl, trivial⟩⟩
  · show (0 : Word).toNat = 0
    rfl
  · show (16 : Word).toNat = 16 ∧ Config.default.callOverflow = .reject
    exact ⟨rfl, rfl⟩
  · show ¬ (3 = 0 ∨ 0xFFE + 3 ≤ 0x1000)
    decide
  · show keyFault.keyIndexMode = .fault ∧ (0x13 : Byte).toNat > 15
    decide
  · show (0x200 : Word) = 0x200 ∧ normPc Config.default 0x200 = 0x200
    exact ⟨rfl, rfl⟩

theorem test_witness_StoppedAtAKeyWait : StoppedAt 0x200 (word base 0xF50A) := by
  refine ⟨rfl, rfl, ?_⟩
  show ∀ k ≤ 14, (word base 0xF50A).key k = false
  decide

/-- One tick that executes 1202, and then a state that executes F307. -/
theorem test_witness_DelayTimerCountsTicks :
    let s := word { bytes base [(0x202, 0xF3), (0x203, 0x07)] with dt := 3 } 0x1202
    s.cfg.timerMode = .coupled ∧ s.run = .running ∧
    NoneOfNextTicks (fun i => ∃ x, i = .ldDtV x) 1 s ∧ NoneOfNextTicks (fun i => ∃ x, i = .ldStV x) 1 s ∧
    ∃ u, Host.Core.run Sys2Proof.core 1 s = .next u ∧ u.dt = 2 ∧ TickExecutes u (.ldVDt 3) := by
  have hop : ∀ (op : Word) (s : State), s = word { bytes base [(0x202, 0xF3), (0x203, 0x07)] with dt := 3 } 0x1202 →
      fetch (tickTimers s) = .ok op → decode op = .instr (.jp 0x202) := by
    rintro op s rfl h
    have h' : fetch (tickTimers (word { bytes base [(0x202, 0xF3), (0x203, 0x07)] with dt := 3 } 0x1202)) = .ok 0x1202 := rfl
    rw [h'] at h
    injection h with h
    subst h
    decide
  refine ⟨rfl, rfl, ⟨?_, fun _ _ => trivial⟩, ⟨?_, fun _ _ => trivial⟩, _, rfl, rfl, rfl, 0xF307, rfl, by decide⟩
  · rintro i ⟨-, op, h1, h2⟩ ⟨x, rfl⟩
    rw [hop op _ rfl h1] at h2
    cases h2
  · rintro i ⟨-, op, h1, h2⟩ ⟨x, rfl⟩
    rw [hop op _ rfl h1] at h2
    cases h2

theorem test_witness_PlacedWordIsTheNextInstruction :
    decodeTableWord 16 0x00E0 = some .cls ∧ decodeTableWord 16 0xFF65 = some (.ldRegs 15) := by decide

theorem test_witness_LoadCopiesTheRomOrChangesNothing :
    (List.replicate 3585 (0 : Byte)).length > 3584 ∧ (List.replicate 3584 (0 : Byte)).length ≤ 3584 := by
  simp only [List.length_replicate]
  decide

theorem test_witness_RunStateMachine :
    base.run = .running ∧ State.reset.run ≠ .running ∧ { base with run := RunState.paused }.run = .paused ∧
    seen (fun t => t.run) (step base) = some .running := by decide

/-- Words with each high nibble, low nibble and low byte that a statement of one instruction speaks of. -/
theorem test_witness_slices :
    (∀ k < 16, (slice (BitVec.ofNat 16 (k * 4096 + 0xABC)) 12 4).toNat = k) ∧
    (∀ k < 16, (slice (BitVec.ofNat 16 (0x8120 + k)) 0 4).toNat = k ∧ slice (BitVec.ofNat 16 (0x8120 + k)) 12 4 = 0x8) ∧
    (∀ k ∈ [0x9E, 0xA1], (slice (BitVec.ofNat 16 (0xE200 + k)) 0 8).toNat = k) ∧
    (∀ k ∈ [0x07, 0x0A, 0x15, 0x18, 0x1E, 0x29, 0x33, 0x55, 0x65], (slice (BitVec.ofNat 16 (0xF200 + k)) 0 8).toNat = k) := by
  decide

theorem test_witness_ReturnPopsTheStack :
    base.sp.toNat = 0 ∧ (∀ n ∈ [1, 16], 0 < (BitVec.ofNat 16 n).toNat ∧ (BitVec.ofNat 16 n).toNat ≤ 16) := by decide

theorem test_witness_CallPushesItsOwnAddress :
    ({ base with sp := 15 } : State).sp.toNat < 16 ∧ (fullStack base).sp.toNat = 16 ∧
    (fullStack base).cfg.callOverflow = .reject ∧ (fullStack (baseWith jumpNoPush)).sp.toNat = 16 ∧
    (fullStack (baseWith jumpNoPush)).cfg.callOverflow = .jumpNoPush := by decide

theorem test_witness_CallThenReturnComesBack :
    ({ base with sp := 15 } : State).sp.toNat < 16 ∧
    seen (fun t => (t.sp, t.stackEntry 15, t.cfg)) (exec (.call 0x300) { base with sp := 15 }) = some (16, 0x200, base.cfg) ∧
    (fullStack base).sp.toNat = 16 := by decide

theorem test_witness_OnlyABadStackPointerStops :
    ({ base with sp := 17 } : State).sp.toNat > 16 ∧
    exec .ret { base with sp := 17 } = .fault .stackPointerOutOfRange ∧
    exec (.call 0) { base with sp := 17 } = .fault .stackPointerOutOfRange := ⟨by decide, rfl, rfl⟩

theorem test_witness_ShiftsReportTheBitShiftedOut :
    255 = (if (regs base [(1, 0xFF)]).cfg.shiftSrc = .vx then ((regs base [(1, 0xFF)]).readV 1).toNat
      else ((regs base [(1, 0xFF)]).readV 2).toNat) ∧ (1 : RegIdx) ≠ vf := by decide

theorem test_witness_ArithmeticWrapsAtTheBoundary :
    seen (fun t => t.readV 1) (exec (.ldImm 1 0xFF) base) = some 0xFF ∧
    (1 : RegIdx) ≠ 2 ∧ (1 : RegIdx) ≠ vf ∧ (2 : RegIdx) ≠ vf ∧
    (regs base [(1, 254), (2, 1)]).readV 1 = 254 ∧ (regs base [(1, 255), (2, 1)]).readV 1 = 255 ∧
    (regs base [(1, 255), (2, 1)]).readV 2 = 1 ∧ base.readV 1 = 0 ∧ base.readV 2 = 0 := by decide

theorem test_witness_AddToIndexReportsOverflow :
    base.cfg.addrMode = .wrap ∧ (baseWith fault).cfg.addrMode = .fault := by decide

/-- A transfer of three bytes that just fits and one that does not, an address it writes and one it does not. -/
theorem test_witness_DecimalDigitsAreStored :
    TransferInRange fault 0xFFD 3 ∧ TransferInRange Config.default 0xFFF 3 ∧ fault.addrMode = .fault ∧ 0xFFE + 2 > 0xFFF ∧
    AddressIs fault 0xFFD 0xFFD ∧ AddressIs fault 0xFFE 0xFFE ∧ AddressIs fault 0xFFF 0xFFF ∧
    AddressIs Config.default (0xFFF + 1) 0 ∧ OutsideTransfer fault 0xFFD 3 0xFFC := by
  refine ⟨.inr (by decide), trivial, rfl, by decide, rfl, rfl, rfl, rfl, fun k hk h => ?_⟩
  interval_cases k <;> cases h

theorem test_witness_RegistersAreStored :
    TransferInRange fault 0xFF0 16 ∧ AddressIs fault (0xFF0 + 15) 0xFFF ∧ fault.addrMode = .fault ∧ 0xFF1 + 15 > 0xFFF ∧
    (15 : RegIdx) ≤ 15 ∧ OutsideTransfer fault 0xFF0 16 0 := by
  refine ⟨.inr (by decide), rfl, rfl, by decide, by decide, fun k hk h => ?_⟩
  interval_cases k <;> cases h

theorem test_witness_RegistersAreLoaded :
    TransferInRange fault 0xFFF 1 ∧ AddressIs fault (0xFFF + 0) 0xFFF ∧ fault.addrMode = .fault ∧ 0xFFF + 1 > 0xFFF ∧
    (0 : RegIdx) ≤ 0 := ⟨.inr (by decide), rfl, rfl, by decide, by decide⟩

/-- Store V0 to VF in the last 16 bytes, clear V0, and load. -/
theorem test_witness_StoreThenLoadRestoresRegisters :
    let s := { regs base [(0, 7)] with i := 0xFF0 }
    s.i.toNat + 15 ≤ 0xFFF ∧
    ∃ t, exec (.stRegs 15) s = .next t ∧
      let u := t.writeV 0 0
      u.cfg = t.cfg ∧ u.i = t.i ∧ (∀ k ≤ 15, u.readByte (s.i.toNat + k) = t.readByte (s.i.toNat + k)) ∧ u.readV 0 ≠ s.readV 0 :=
  ⟨by decide, _, rfl, rfl, rfl, fun _ _ => rfl, by decide⟩

/-- FA55 at 0x200 with I = 0x202 writes the word that is fetched next. -/
theorem test_witness_StoredCodeIsFetchedAtOnce :
    let s := { regs base [(0, 0x60), (1, 0x07)] with i := 0x202 }
    ∃ t, exec (.stRegs 1) s = .next t ∧ t.event = .evNone ∧ (0 : RegIdx).val + 1 = (1 : RegIdx).val ∧ (1 : RegIdx) ≤ 1 ∧
      AddressIs s.cfg (s.i.toNat + 0) 0x202 ∧ AddressIs s.cfg (s.i.toNat + 1) 0x203 ∧
      AddressIs s.cfg t.pc.toNat 0x202 ∧ AddressIs s.cfg (t.pc.toNat + 1) 0x203 :=
  ⟨_, rfl, rfl, rfl, by decide, rfl, rfl, rfl, rfl⟩

theorem test_witness_MemoryPortsReadBackAndRejectOutside :
    memRead base 4095 = .ok 0 ∧ memRead base 4096 = .error (.invalidAddress 4096) ∧
    memWrite base 4096 1 = .error (.invalidAddress 4096) ∧ (4094 : Nat) ≠ 4095 := ⟨rfl, rfl, rfl, by decide⟩

/-- The sprite row 0x81 at (0, 0): it covers (0, 0) and (7, 0) and no other cell of the row, and collides when (7, 0) is
on. -/
theorem test_witness_DrawXorsTheSprite :
    TransferInRange fault 0xFFF 1 ∧ TransferInRange fault 0x1000 0 ∧ OnScreen 63 31 ∧
    spriteCovers [0x81] 0 0 0 0 = true ∧ spriteCovers [0x81] 0 0 1 0 = false ∧ spriteCovers [0x81] 0 0 7 0 = true ∧
    Collides (Grid.set Grid.blank 7 0 true) [0x81] 0 0 ∧ ¬ Collides Grid.blank [0x81] 0 0 := by
  refine ⟨.inr (by decide), .inl rfl, by decide, by decide, by decide, by decide, ⟨7, 0, by decide, by decide, by decide⟩, ?_⟩
  rintro ⟨cx, cy, h, -, hg⟩
  have : Grid.get Grid.blank cx cy = false := by
    unfold Grid.get Grid.blank
    split <;> simp
  rw [this] at hg
  cases hg

theorem test_witness_DrawChecksEveryAddressFirst :
    fault.addrMode = .fault ∧ 2 < 3 ∧ 0xFFE + 2 > 0xFFF ∧ (∀ q < 2, 0xFFE + q ≤ 0xFFF) ∧ Config.default.addrMode = .wrap := by
  decide

/-- Glyph 0 at (10, 5), drawn twice (V64, V96). -/
theorem test_witness_DrawingTwiceRestoresThePixels :
    let s := regs base [(0, 10), (1, 5)]
    let rows : List Byte := [0xF0, 0x90]
    SpriteRows s 2 rows ∧
    ∃ t, exec (.drw 0 1 2) s = .next t ∧ SpriteRows t 2 rows ∧ t.readV 0 = s.readV 0 ∧ t.readV 1 = s.readV 1 ∧ t.cfg = s.cfg ∧
      ∃ w, exec (.drw 0 1 2) t = .next w ∧ OnScreen 10 5 ∧ spriteCovers rows 10 5 10 5 = true ∧ Grid.get s.fb 10 5 = false := by
  refine ⟨⟨rfl, fun r hr => ?_⟩, _, rfl, ⟨rfl, fun r hr => ?_⟩, rfl, rfl, rfl, _, rfl, by decide, by decide, by decide⟩
  · interval_cases r
    · exact ⟨0, rfl, rfl⟩
    · exact ⟨1, rfl, rfl⟩
  · interval_cases r
    · exact ⟨0, rfl, rfl⟩
    · exact ⟨1, rfl, rfl⟩

/-- Every pixel under the sprite on before the first draw, and either way of marking cells. -/
theorem test_witness_DrawingTwiceOverLitPixels :
    let s := { regs (bytes base [(0x300, 0x80)]) [] with i := 0x300, fb := Grid.set base.fb 0 0 true }
    SpriteRows s 1 [0x80] ∧ OnScreen 0 0 ∧ spriteCovers [0x80] 0 0 0 0 = true ∧ Grid.get s.fb 0 0 = true ∧
    s.cfg.dirtyUpdate = .set ∧ (baseWith toggle).cfg.dirtyUpdate = .toggle := by
  refine ⟨⟨rfl, fun r hr => ?_⟩, by decide, by decide, by decide, rfl, rfl⟩
  interval_cases r
  exact ⟨0x300, rfl, rfl⟩

theorem test_witness_FirstDrawAfterClearDoesNotCollide :
    ∃ t, exec .cls base = .next t ∧ SpriteRows t 1 [0xF0] ∧ ∃ w, exec (.drw 0 1 1) t = .next w ∧ OnScreen 0 0 := by
  refine ⟨_, rfl, ⟨rfl, fun r hr => ?_⟩, _, rfl, by decide⟩
  interval_cases r
  exact ⟨0, rfl, rfl⟩

theorem test_witness_RendererPortReadsAndClears :
    cellNumber 63 31 = some (63, 31) ∧ cellNumber 0 0 = some (0, 0) ∧ cellNumber 64 0 = none ∧ cellNumber 0 32 = none ∧
    cellNumber (-1) 0 = none := by decide

theorem test_witness_RendererOnlyClearsItsFlags :
    ∀ o ∈ [IfaceOp.fbRead 0 0, .fbClearDirty 63 31, .fbReadFullRedraw, .fbClearFullRedraw], o.isRenderer = true := by decide

theorem test_witness_TimerInstructionsMoveTheTimers :
    TickExecutes (word base 0xF307) (.ldVDt 3) ∧ base.cfg.timerMode = .coupled ∧ TickExecutes (word base 0xFF15) (.ldDtV 15) :=
  ⟨⟨rfl, 0xF307, rfl, by decide⟩, rfl, ⟨rfl, 0xFF15, rfl, by decide⟩⟩

theorem test_witness_KeySkipsTestTheKey :
    base.cfg.keyIndexMode = .mask ∧ (15 = (0xFF : Byte).toNat % 16) ∧ (baseWith keyFault).cfg.keyIndexMode = .fault ∧
    15 = (0x0F : Byte).toNat ∧ (0x10 : Byte).toNat > 15 := by decide

theorem test_witness_WaitForKeyCapturesTheLowest :
    let s := { base with keys := base.keys.set 15 true }
    let t := { baseWith keyMax15 with keys := base.keys.set 15 true }
    (∀ k ≤ s.cfg.fx0aKeyMax.val, s.key k = false) ∧
    15 ≤ t.cfg.fx0aKeyMax.val ∧ t.key 15 = true ∧ (∀ j < 15, t.key j = false) := by decide

theorem test_witness_KeypadPortSetsOneKey :
    keyNumber 0 = some 0 ∧ keyNumber 15 = some 15 ∧ keyNumber 16 = none ∧ keyNumber (-1) = none := by decide

/-- A next state of an instruction that completes, of one that raises, and of a call that reports and still jumps. -/
theorem test_witness_NextStates :
    seen State.event (exec (.ldImm 1 2) base) = some .evNone ∧ seen State.event (exec .ret base) = some (.stackUnderflow 0x200) ∧
    seen (fun t => (t.event, t.pc)) (exec (.call 0x300) (fullStack (baseWith jumpNoPush))) =
      some (.stackOverflow 0x200, 0x300) := by decide

theorem test_witness_RaisingTickChangesNothing :
    (∃ t, step (word base 0x00EE) = .next t ∧ t.event ≠ .evNone) ∧
    ∃ t, step (word (fullStack (baseWith jumpNoPush)) 0x2300) = .next t ∧ t.event = .stackOverflow 0x200 :=
  ⟨⟨_, rfl, by decide⟩, _, rfl, rfl⟩

theorem test_witness_ProgramCannotObserveTheRenderersState :
    SameForProgram (word base 0x6A05) { word base 0x6A05 with fullRedraw := true, st := 9, speed := 5 } ∧
    ∃ t, step (word base 0x6A05) = .next t := ⟨rfl, _, rfl⟩

theorem test_witness_Invariant : (word base 0x6A05).Inv ∧ ∃ t, step (word base 0x6A05) = .next t := by
  refine ⟨⟨by decide, by decide, fun _ => by decide, fun _ j hj => ?_⟩, _, rfl⟩
  exact absurd hj (Nat.not_lt_zero j)

end Sys2Proof.Tests
end

section
/-! PROOFS. The statements of 00_scope.md: the primitives A and P (R13), and that every sequence of interface operations
completes and keeps the invariant (R6). -/

namespace Sys2Proof

/-! ### The decoder answers well-formed instructions only (30_encoding.md R76, R77) -/

theorem nnnFits_opNNN (op : Word) : nnnFits (opNNN op) = true := by
  simp only [nnnFits, opNNN_toNat, decide_eq_true_eq]
  omega

theorem nFits_opN (op : Word) : nFits (opN op) = true := by
  simp only [nFits, opN_eq, decide_eq_true_eq]
  omega

theorem decode0_wellFormed {op : Word} {i : Instr} (h : decode0 op = .instr i) : i.wellFormed = true := by
  unfold decode0 at h
  split_ifs at h <;> cases h <;> rfl

theorem decode8_wellFormed {op : Word} {i : Instr} (h : decode8 op = .instr i) : i.wellFormed = true := by
  unfold decode8 at h
  split at h <;> cases h <;> rfl

theorem decodeE_wellFormed {op : Word} {i : Instr} (h : decodeE op = .instr i) : i.wellFormed = true := by
  unfold decodeE at h
  split at h <;> cases h <;> rfl

theorem decodeF_wellFormed {op : Word} {i : Instr} (h : decodeF op = .instr i) : i.wellFormed = true := by
  unfold decodeF at h
  split at h <;> cases h <;> rfl

theorem decode_wellFormed {op : Word} {i : Instr} (h : decode op = .instr i) : i.wellFormed = true := by
  unfold decode at h
  split at h
  case h_1 => exact decode0_wellFormed h
  case h_2 | h_3 | h_11 | h_12 => cases h; exact nnnFits_opNNN op
  case h_4 | h_5 | h_7 | h_8 | h_13 => cases h; rfl
  case h_6 | h_10 => split at h <;> cases h; rfl
  case h_9 => exact decode8_wellFormed h
  case h_14 => cases h; exact nFits_opN op
  case h_15 => exact decodeE_wellFormed h
  case h_16 => exact decodeF_wellFormed h
  case h_17 => cases h

end Sys2Proof

namespace Sys2Proof.Machine

/-! ### The primitives A and P (00_scope.md R13) -/

theorem normPc_wrap_toNat {cfg : Config} (h : cfg.addrMode = .wrap) (v : Nat) : (normPc cfg v).toNat = v % 4096 := by
  simp only [normPc, h, BitVec.toNat_ofNat]
  omega

theorem normPc_fault_toNat {cfg : Config} (h : cfg.addrMode = .fault) (v : Nat) : (normPc cfg v).toNat = v % 65536 := by
  simp only [normPc, h, BitVec.toNat_ofNat]
  omega

/-- Settles O10, by the two values of ADDR_MODE. -/
theorem addressesAndPcAreNormalised : Obligations.AddressesAndPcAreNormalised := by
  intro cfg v
  refine ⟨fun h => ⟨formAddr_wrap h v, normPc_wrap_toNat h v⟩, fun h => ⟨fun hv => ?_, fun hv => ?_, normPc_fault_toNat h v⟩⟩
  · rw [formAddr_fault h, if_pos hv]
  · rw [formAddr_fault h, if_neg (by omega)]

/-! ### The invariant under given parameters

`Inv` reads the parameters, MEM, SP, the stack, PC and I. An update of any other field keeps it by definition: there the
hypothesis itself is the proof. -/

/-- `s` meets the invariant, and its parameters are `cfg`. -/
def InvUnder (cfg : Config) (s : State) : Prop := s.Inv ∧ s.cfg = cfg

/-- The outcome is a next state that meets the invariant under `cfg`: neither a fault nor a refusal. -/
def EndsInInv (cfg : Config) (o : Outcome) : Prop := ∃ t, o = .next t ∧ InvUnder cfg t

section
variable {cfg : Config} {s : State}

theorem InvUnder.init (cfg : Config) : InvUnder cfg (State.init cfg) :=
  ⟨⟨Memory.nil_wf cfg.font, by simp [State.init], fun _ => by simp [State.init], fun _ j hj => absurd hj (Nat.not_lt_zero j)⟩,
    rfl⟩

theorem InvUnder.setEvent (h : InvUnder cfg s) (e : Event) : InvUnder cfg (s.setEvent e) := h

theorem InvUnder.writeV (h : InvUnder cfg s) (r : RegIdx) (b : Byte) : InvUnder cfg (s.writeV r b) := h

theorem InvUnder.writeResultAndFlag (h : InvUnder cfg s) (x : RegIdx) (b : Byte) (c : Bool) :
    InvUnder cfg (s.writeResultAndFlag x b c) := h

theorem InvUnder.writeRegsFrom (h : InvUnder cfg s) (k : Nat) (bs : List Byte) : InvUnder cfg (s.writeRegsFrom k bs) := by
  rw [State.writeRegsFrom_eq]
  exact h

theorem InvUnder.drawSprite (h : InvUnder cfg s) (px py : Nat) (rows : List Byte) :
    InvUnder cfg (drawSprite s px py rows) := h

theorem InvUnder.timerDecrement (h : InvUnder cfg s) : InvUnder cfg (timerDecrement s) := h

theorem InvUnder.tickTimers (h : InvUnder cfg s) : InvUnder cfg (tickTimers s) := by
  rw [tickTimers_eq]
  exact h

/-- Canonical memory may be replaced by canonical memory. -/
theorem InvUnder.setMem (h : InvUnder cfg s) {m : Memory} (hm : Memory.WF s.cfg.font s.mem → Memory.WF s.cfg.font m) :
    InvUnder cfg { s with mem := m } := by
  obtain ⟨⟨hwf, hrest⟩, hc⟩ := h
  exact ⟨⟨hm hwf, hrest⟩, hc⟩

/-- PC <- P(v) puts PC in memory under WRAP (10_state.md R24). -/
theorem InvUnder.jump (h : InvUnder cfg s) (v : Nat) : InvUnder cfg (s.jump v) := by
  obtain ⟨⟨hmem, hsp, hpci, hstack⟩, hc⟩ := h
  exact ⟨⟨hmem, hsp, fun hw => ⟨normPc_wrap_le hw v, (hpci hw).2⟩, hstack⟩, hc⟩

theorem InvUnder.setI (h : InvUnder cfg s) {w : Word} (hi : s.cfg.addrMode = .wrap → w.toNat ≤ 0xFFF) :
    InvUnder cfg (s.setI w) := by
  obtain ⟨⟨hmem, hsp, hpci, hstack⟩, hc⟩ := h
  exact ⟨⟨hmem, hsp, fun hw => ⟨(hpci hw).1, hi hw⟩, hstack⟩, hc⟩

/-- The PC that a CALL pushes is an address under WRAP, so the new entry is one (10_state.md R27). -/
theorem InvUnder.pushPc (h : InvUnder cfg s) (hlt : s.sp.toNat < 16) : InvUnder cfg (s.push s.pc) := by
  obtain ⟨⟨hmem, hsp, hpci, hstack⟩, hc⟩ := h
  have hsp' : (s.push s.pc).sp.toNat = s.sp.toNat + 1 := by
    simp only [State.push_sp, BitVec.toNat_ofNat]
    omega
  refine ⟨⟨hmem, by omega, hpci, fun hw j hj => ?_⟩, hc⟩
  rw [State.stackEntry_push hlt]
  split
  · exact (hpci hw).1
  · exact hstack hw j (by omega)

theorem InvUnder.dropTop (h : InvUnder cfg s) : InvUnder cfg s.dropTop := by
  obtain ⟨⟨hmem, hsp, hpci, hstack⟩, hc⟩ := h
  have hsp' : s.dropTop.sp.toNat = s.sp.toNat - 1 := by
    simp only [State.dropTop_sp, BitVec.toNat_ofNat]
    omega
  exact ⟨⟨hmem, by omega, hpci, fun hw j hj => hstack hw j (by omega)⟩, hc⟩

/-! ### How an instruction ends -/

theorem InvUnder.sp_le (h : InvUnder cfg s) : s.sp.toNat ≤ 16 := by
  obtain ⟨⟨-, hsp, -, -⟩, -⟩ := h
  exact hsp

theorem InvUnder.spValid (h : InvUnder cfg s) : s.spValid = true := decide_eq_true h.sp_le

theorem EndsInInv.raise (h : InvUnder cfg s) (e : Event) : EndsInInv cfg (raise e s) := ⟨_, rfl, h.setEvent e⟩

theorem EndsInInv.complete (h : InvUnder cfg s) : EndsInInv cfg (complete s) := ⟨_, rfl, h.setEvent .evNone⟩

theorem EndsInInv.jump (h : InvUnder cfg s) (v : Nat) : EndsInInv cfg (Machine.complete (s.jump v)) := .complete (h.jump v)

theorem EndsInInv.advance (h : InvUnder cfg s) : EndsInInv cfg (Machine.complete s.advance) := .jump h _

theorem EndsInInv.skipIf (h : InvUnder cfg s) (c : Bool) : EndsInInv cfg (Machine.complete (s.skipIf c)) := by
  rw [State.skipIf_eq]
  exact .jump h _

/-! ### The instructions that can raise, or that write what the invariant reads -/

theorem execRet_endsInInv (h : InvUnder cfg s) : EndsInInv cfg (execRet s) := by
  rw [execRet, if_pos h.spValid]
  split
  · exact .raise h _
  · exact .jump h.dropTop _

theorem callWithFullStack_endsInInv (h : InvUnder cfg s) (nnn : Word) : EndsInInv cfg (callWithFullStack nnn s) := by
  unfold callWithFullStack
  split
  · exact .raise h _
  · exact ⟨_, rfl, (h.jump _).setEvent _⟩

theorem execCall_endsInInv (h : InvUnder cfg s) (nnn : Word) : EndsInInv cfg (execCall nnn s) := by
  rw [execCall, if_pos h.spValid]
  split
  · exact callWithFullStack_endsInInv h nnn
  · exact .jump (h.pushPc (by have := h.sp_le; omega)) _

theorem skipOnKey_endsInInv (h : InvUnder cfg s) (b : Bool) (x : RegIdx) : EndsInInv cfg (skipOnKey b x s) := by
  cases hm : s.cfg.keyIndexMode with
  | mask =>
    rw [skipOnKey_ok (.inl hm)]
    exact .skipIf h _
  | fault =>
    by_cases hx : (s.readV x).toNat ≤ 15
    · rw [skipOnKey_ok (.inr hx)]
      exact .skipIf h _
    · rw [skipOnKey_error hm (by omega)]
      exact .raise h _

theorem execLdK_endsInInv (h : InvUnder cfg s) (x : RegIdx) : EndsInInv cfg (execLdK x s) := by
  unfold execLdK
  split
  · exact .raise h _
  · exact .advance (h.writeV x _)

theorem execDrw_endsInInv (h : InvUnder cfg s) (x y : RegIdx) (n : Nat) : EndsInInv cfg (execDrw x y n s) := by
  by_cases hr : TransferInRange s.cfg s.i.toNat n
  · obtain ⟨rows, -, he⟩ := execDrw_in hr x y
    rw [he]
    exact .advance (h.drawSprite _ _ rows)
  · rw [execDrw_out hr]
    exact .raise h _

theorem storeAtIndex_endsInInv (h : InvUnder cfg s) {bs : List Byte} (hsmall : bs.length ≤ 4096) :
    EndsInInv cfg (storeAtIndex bs s) := by
  by_cases hr : TransferInRange s.cfg s.i.toNat bs.length
  · obtain ⟨m, he, hwf, -, -⟩ := storeAtIndex_in hr hsmall
    rw [he]
    exact .advance (h.setMem hwf)
  · rw [storeAtIndex_out hr]
    exact .raise h _

theorem execLdRegs_endsInInv (h : InvUnder cfg s) (x : RegIdx) : EndsInInv cfg (execLdRegs x s) := by
  by_cases hr : TransferInRange s.cfg s.i.toNat (x.val + 1)
  · obtain ⟨bs, -, -, he⟩ := execLdRegs_in hr
    rw [he]
    exact .advance (h.writeRegsFrom 0 bs)
  · rw [execLdRegs_out hr]
    exact .raise h _

theorem indexSum_wrap_le (h : cfg.addrMode = .wrap) (sum : Nat) : (indexSum cfg sum).toNat ≤ 0xFFF := by
  simp only [indexSum, h, BitVec.toNat_ofNat]
  omega

theorem glyphAddress_le (b : Byte) : (glyphAddress b).toNat ≤ 0xFFF := by
  have := b.isLt
  rw [glyphAddress, BitVec.toNat_ofNat, Nat.mod_eq_of_lt (by omega)]
  omega

theorem execAddIdx_endsInInv (h : InvUnder cfg s) (x : RegIdx) : EndsInInv cfg (execAddIdx x s) :=
  .advance ((h.setI fun hw => indexSum_wrap_le hw _).writeV vf _)

/-! ### Every instruction, the tick, and every operation -/

/-- A decoded instruction never stops a machine that meets the invariant, and keeps the invariant. Well-formedness is
needed: Annn with more than 12 bits would take I out of memory under WRAP. -/
theorem exec_endsInInv (h : InvUnder cfg s) {i : Instr} (hw : i.wellFormed = true) : EndsInInv cfg (exec i s) := by
  cases i with
  | cls => exact .advance h
  | ret => exact execRet_endsInInv h
  | call nnn => exact execCall_endsInInv h nnn
  | jp | jpV0 => exact .jump h _
  | seImm | sneImm | seReg | sneReg => exact .skipIf h _
  | ldImm | addImm | ldReg | or | and | xor | ldVDt => exact .advance (h.writeV _ _)
  | rnd => exact .advance h
  | addReg | sub | shr | subn | shl => exact .advance (h.writeResultAndFlag _ _ _)
  | ldDtV | ldStV => exact .advance h
  | ldIdx nnn => exact .advance (h.setI fun _ => of_decide_eq_true hw)
  | addIdx x => exact execAddIdx_endsInInv h x
  | ldF x => exact .advance (h.setI fun _ => glyphAddress_le _)
  | drw x y n => exact execDrw_endsInInv h x y n
  | skp x | sknp x => exact skipOnKey_endsInInv h _ x
  | ldK x => exact execLdK_endsInInv h x
  | ldB => exact storeAtIndex_endsInInv h (by simp [bcdDigits])
  | stRegs x => exact storeAtIndex_endsInInv h (by rw [State.regsUpTo_length]; omega)
  | ldRegs x => exact execLdRegs_endsInInv h x

theorem step_endsInInv (h : InvUnder cfg s) : EndsInInv cfg (step s) := by
  by_cases hr : s.run = .running
  · obtain ⟨e, -, he⟩ | ⟨-, w, -, -, he⟩ | ⟨op, i, -, hd, he⟩ := step_cases hr
    · rw [he]; exact .raise h.tickTimers e
    · rw [he]; exact .raise h.tickTimers _
    · rw [he]; exact exec_endsInInv h.tickTimers (decode_wellFormed hd)
  · rw [step_not_running hr]
    exact .complete h

theorem InvUnder.resetOp (h : InvUnder cfg s) : InvUnder cfg (resetOp s) := by
  obtain ⟨-, rfl⟩ := h
  exact InvUnder.init s.cfg

theorem InvUnder.loadOp (h : InvUnder cfg s) (rom : List Byte) : InvUnder cfg (loadOp rom s).1 := by
  unfold Machine.loadOp
  split
  · exact h
  · have hcopy : InvUnder cfg (copyRom (Machine.resetOp s) 0x200 rom) := by
      rw [copyRom_eq]
      exact h.resetOp.setMem fun hwf => copyRom_wf hwf _ _
    exact hcopy

theorem InvUnder.pauseOp (h : InvUnder cfg s) : InvUnder cfg (pauseOp s) := by
  unfold Machine.pauseOp
  split <;> exact h

theorem InvUnder.resumeOp (h : InvUnder cfg s) : InvUnder cfg (resumeOp s) := by
  unfold Machine.resumeOp
  split <;> exact h

theorem InvUnder.timerTickOp (h : InvUnder cfg s) : InvUnder cfg (timerTickOp s) := by
  unfold Machine.timerTickOp
  split
  · exact h.timerDecrement
  all_goals exact h

theorem InvUnder.keySetOp (h : InvUnder cfg s) (k : Int) (b : Bool) : InvUnder cfg (keySetOp k b s).1 := by
  unfold Machine.keySetOp
  split <;> exact h

theorem InvUnder.fbClearDirtyOp (h : InvUnder cfg s) (x y : Int) : InvUnder cfg (fbClearDirtyOp x y s) := by
  unfold Machine.fbClearDirtyOp
  split <;> exact h

theorem tickOp_completes (h : InvUnder cfg s) : ∃ t r, tickOp s = .next (t, r) ∧ InvUnder cfg t := by
  obtain ⟨t, ht, hinv⟩ := step_endsInInv h
  exact ⟨t, .event t.event, by rw [tickOp, ht], hinv⟩

/-- Every operation of the interface completes with a result, and keeps the invariant and the parameters. -/
theorem transact_completes (h : InvUnder cfg s) (op : IfaceOp) :
    ∃ t r, transact op s = .next (t, r) ∧ InvUnder cfg t := by
  cases op with
  | tick => exact tickOp_completes h
  | reset => exact ⟨_, _, rfl, h.resetOp⟩
  | load rom => exact ⟨_, _, rfl, h.loadOp rom⟩
  | pause => exact ⟨_, _, rfl, h.pauseOp⟩
  | resume => exact ⟨_, _, rfl, h.resumeOp⟩
  | timerTick => exact ⟨_, _, rfl, h.timerTickOp⟩
  | keyPress k | keyRelease k => exact ⟨_, _, rfl, h.keySetOp k _⟩
  | fbClearDirty x y => exact ⟨_, _, rfl, h.fbClearDirtyOp x y⟩
  | setSpeed | fbClearFullRedraw => exact ⟨_, _, rfl, h⟩
  | keyQuery | fbRead | fbReadFullRedraw | soundActive | runState => exact ⟨_, _, rfl, h⟩

theorem transactAll_completes (h : InvUnder cfg s) (ops : List IfaceOp) :
    ∃ t rs, transactAll ops s = .next (t, rs) ∧ InvUnder cfg t ∧ rs.length = ops.length := by
  induction ops generalizing s with
  | nil => exact ⟨s, [], rfl, h, rfl⟩
  | cons op ops ih =>
    obtain ⟨t, r, ht, hinv⟩ := transact_completes h op
    obtain ⟨u, rs, hu, hinv', hlen⟩ := ih hinv
    exact ⟨u, r :: rs, by simp only [transactAll, ht, hu], hinv', by rw [List.length_cons, hlen, List.length_cons]⟩

end

/-- Settles O60, by induction on the list of operations. -/
theorem everyOperationSequenceCompletes : Obligations.EveryOperationSequenceCompletes := by
  intro ops s hs
  obtain ⟨t, rs, hrun, ⟨hinv, hcfg⟩, hlen⟩ := transactAll_completes ⟨hs, rfl⟩ ops
  exact ⟨t, rs, hrun, hinv, hcfg, hlen⟩

end Sys2Proof.Machine
end

section
/-! PROOFS. The invariant (10_state.md R23, R24, R26, R27), and the state after RESET (R38). -/

namespace Sys2Proof.Machine

/-! ### The invariant -/

/-- Settles O59, by what a step from a state of the invariant answers. -/
theorem everyStepKeepsTheInvariant : Obligations.EveryStepKeepsTheInvariant := by
  intro s t hs ht
  obtain ⟨t', ht', hinv, -⟩ := step_endsInInv ⟨hs, rfl⟩
  obtain rfl : t' = t := by simpa [ht'] using ht
  exact hinv

theorem State.init_inv (cfg : Config) : (State.init cfg).Inv := (InvUnder.init cfg).left

/-- Settles O58: nothing is listed in memory, no stack entry is occupied, and PC and I are fixed. -/
theorem invariantHoldsAtReset : Obligations.InvariantHoldsAtReset :=
  ⟨State.init_inv Config.default, State.init_inv⟩

/-! ### The state after RESET (R38) -/

theorem State.init_readV (cfg : Config) (r : RegIdx) : (State.init cfg).readV r = 0 := by
  simp [State.init, State.readV]

theorem State.init_stackEntry (cfg : Config) (j : Nat) : (State.init cfg).stackEntry j = 0 := by
  by_cases hj : j < 16 <;> simp [State.init, State.stackEntry, hj]

theorem State.init_key (cfg : Config) (k : Nat) : (State.init cfg).key k = false := by
  by_cases hk : k < 16 <;> simp [State.init, State.key, hk]

theorem State.init_readByte_of_ge (cfg : Config) {a : Nat} (ha : 80 ≤ a) : (State.init cfg).readByte a = 0 := by
  simp [State.init, State.readByte, Memory.read, Memory.lookup, Memory.unlisted, ha]

/-- Settles O17: each register, entry, byte, cell and key of `State.init` reads 0, and RESET keeps the rest. -/
theorem resetLeavesTheListedValues : Obligations.ResetLeavesTheListedValues := by
  intro s
  refine ⟨resetOp s, rfl, rfl, rfl, State.init_readV s.cfg, rfl, State.init_stackEntry s.cfg, rfl, rfl,
    fun a => State.init_readByte_of_ge s.cfg, fun x y => ⟨Grid.get_blank x y, Grid.get_blank x y⟩, rfl,
    State.init_key s.cfg, rfl, rfl, rfl, rfl⟩

end Sys2Proof.Machine
end

section
/-! PROOFS. How every instruction ends (10_state.md R25, R40; 60_exceptions.md R212). -/

namespace Sys2Proof.Machine

/-! ### Frames: one rule for each update of the state -/

section
variable {C : Part → Prop} {s t : State}

theorem UnchangedExcept.refl (C : Part → Prop) (s : State) : UnchangedExcept C s s := by
  intro p _
  cases p <;> rfl

theorem UnchangedExcept.writeV (h : UnchangedExcept C s t) {x : RegIdx} (hx : C (.v x)) (b : Byte) :
    UnchangedExcept C s (t.writeV x b) := by
  intro p hp
  cases p with
  | v r =>
    have hne : r ≠ x := by rintro rfl; exact hp hx
    rw [SamePart, State.readV_writeV, if_neg hne]
    exact h _ hp
  | _ => exact h _ hp

theorem UnchangedExcept.setI (h : UnchangedExcept C s t) (hi : C .i) (w : Word) : UnchangedExcept C s (t.setI w) := by
  intro p hp
  cases p with
  | i => exact absurd hi hp
  | _ => exact h _ hp

theorem UnchangedExcept.setDt (h : UnchangedExcept C s t) (hd : C .dt) (b : Byte) : UnchangedExcept C s (t.setDt b) := by
  intro p hp
  cases p with
  | dt => exact absurd hd hp
  | _ => exact h _ hp

theorem UnchangedExcept.setSt (h : UnchangedExcept C s t) (hs : C .st) (b : Byte) : UnchangedExcept C s (t.setSt b) := by
  intro p hp
  cases p with
  | st => exact absurd hs hp
  | _ => exact h _ hp

theorem UnchangedExcept.setEvent (h : UnchangedExcept C s t) (he : C .event) (e : Event) :
    UnchangedExcept C s (t.setEvent e) := by
  intro p hp
  cases p with
  | event => exact absurd he hp
  | _ => exact h _ hp

theorem UnchangedExcept.jump (h : UnchangedExcept C s t) (hpc : C .pc) (v : Nat) : UnchangedExcept C s (t.jump v) := by
  intro p hp
  cases p with
  | pc => exact absurd hpc hp
  | _ => exact h _ hp

theorem UnchangedExcept.countDraw (h : UnchangedExcept C s t) (hd : C .draws) : UnchangedExcept C s t.countDraw := by
  intro p hp
  cases p with
  | draws => exact absurd hd hp
  | _ => exact h _ hp

theorem UnchangedExcept.dropTop (h : UnchangedExcept C s t) (hsp : C .sp) : UnchangedExcept C s t.dropTop := by
  intro p hp
  cases p with
  | sp => exact absurd hsp hp
  | _ => exact h _ hp

theorem UnchangedExcept.push (h : UnchangedExcept C s t) (hsp : C .sp) (htop : C (.stack t.sp.toNat))
    (hlt : t.sp.toNat < 16) (w : Word) : UnchangedExcept C s (t.push w) := by
  intro p hp
  cases p with
  | sp => exact absurd hsp hp
  | stack j =>
    have hne : j ≠ t.sp.toNat := by rintro rfl; exact hp htop
    rw [SamePart, State.stackEntry_push hlt, if_neg hne]
    exact h _ hp
  | _ => exact h _ hp

theorem UnchangedExcept.clearDisplay (h : UnchangedExcept C s t) (hfb : ∀ x y, C (.pixel x y))
    (hd : ∀ x y, C (.dirty x y)) (hr : C .fullRedraw) : UnchangedExcept C s (clearDisplay t) := by
  intro p hp
  cases p with
  | pixel x y => exact absurd (hfb x y) hp
  | dirty x y => exact absurd (hd x y) hp
  | fullRedraw => exact absurd hr hp
  | _ => exact h _ hp

theorem UnchangedExcept.setDisplay (h : UnchangedExcept C s t) (hfb : ∀ x y, C (.pixel x y))
    (hd : ∀ x y, C (.dirty x y)) (d : Drawing) : UnchangedExcept C s (t.setDisplay d) := by
  intro p hp
  cases p with
  | pixel x y => exact absurd (hfb x y) hp
  | dirty x y => exact absurd (hd x y) hp
  | _ => exact h _ hp

theorem UnchangedExcept.setMem {m : Memory}
    (hm : ∀ a, ¬ C (.byte a) → ({ s with mem := m } : State).readByte a = s.readByte a) :
    UnchangedExcept C s { s with mem := m } := by
  intro p hp
  cases p with
  | byte a => exact hm a hp
  | _ => rfl

theorem UnchangedExcept.writeRegsFrom {k : Nat} {bs : List Byte}
    (hr : ∀ r : RegIdx, r.val < k + bs.length → C (.v r)) : UnchangedExcept C s (s.writeRegsFrom k bs) := by
  intro p hp
  cases p with
  | v r =>
    rw [SamePart, State.readV_writeRegsFrom, if_neg fun hlt => hp (hr r hlt.2)]
  | _ => rw [State.writeRegsFrom_eq]; rfl

end

/-! ### The four ways an instruction ends -/

theorem mayWrite_pc (i : Instr) (s : State) : mayWrite i s .pc := .inl rfl

theorem mayWrite_event (i : Instr) (s : State) : mayWrite i s .event := .inr (.inl rfl)

/-- How `exec i s` ends: it completes, with PC where the table of 10_state.md R25 has it and nothing written outside its
row of R40; or it raises, with no effect but the event; or it is the CALL that JUMP_NO_PUSH makes a jump; or it stops at
an SP above 16. -/
inductive ExecEnds (i : Instr) (s : State) : Outcome → Prop where
  | completes {t : State} (hpc : t.pc = pcAfter i s) (hframe : UnchangedExcept (mayWrite i s) s t) :
      ExecEnds i s (complete t)
  | raises {e : Event} (he : e ≠ .evNone) : ExecEnds i s (raise e s)
  | jumpsNoPush {nnn : Word} (hi : i = .call nnn) (hm : s.cfg.callOverflow = .jumpNoPush) :
      ExecEnds i s (.next ((s.jump nnn.toNat).setEvent (.stackOverflow s.pc)))
  | stops (hi : i = .ret ∨ ∃ nnn, i = .call nnn) (hsp : s.sp.toNat > 16) :
      ExecEnds i s (.fault .stackPointerOutOfRange)

section
variable {i : Instr} {s t : State}

theorem ExecEnds.jump {v : Nat} (hpc : normPc t.cfg v = pcAfter i s) (hframe : UnchangedExcept (mayWrite i s) s t) :
    ExecEnds i s (complete (t.jump v)) :=
  .completes hpc (hframe.jump (mayWrite_pc i s) v)

/-- An instruction that writes one register and goes on to the next instruction. -/
theorem ExecEnds.writesV {x : RegIdx} {b : Byte} (hpc : normPc s.cfg (s.pc.toNat + 2) = pcAfter i s)
    (hx : mayWrite i s (.v x)) : ExecEnds i s (complete (s.writeV x b).advance) :=
  .jump hpc ((UnchangedExcept.refl _ s).writeV hx b)

/-- An instruction that writes a result and a flag and goes on to the next instruction (41_load_alu.md R121). -/
theorem ExecEnds.writesResultAndFlag {x : RegIdx} {b : Byte} {c : Bool}
    (hpc : normPc s.cfg (s.pc.toNat + 2) = pcAfter i s) (hx : mayWrite i s (.v x)) (hf : mayWrite i s (.v vf)) :
    ExecEnds i s (complete (s.writeResultAndFlag x b c).advance) :=
  .jump hpc (((UnchangedExcept.refl _ s).writeV hx b).writeV hf _)

theorem ExecEnds.skips {c : Bool} (hpc : normPc s.cfg (s.pc.toNat + if c then 4 else 2) = pcAfter i s) :
    ExecEnds i s (complete (s.skipIf c)) := by
  rw [State.skipIf_eq]
  exact .jump hpc (.refl _ s)

theorem byte_beq_eq_decide (a b : Byte) : (a == b) = decide (a.toNat = b.toNat) := by
  rw [Bool.eq_iff_iff, beq_iff_eq, decide_eq_true_eq, BitVec.toNat_inj]

theorem byte_bne_eq_decide (a b : Byte) : (a != b) = decide (a.toNat ≠ b.toNat) := by
  rw [bne, byte_beq_eq_decide, decide_not]

theorem execRet_ends (s : State) : ExecEnds .ret s (execRet s) := by
  unfold execRet
  split
  · split
    · exact .raises (by simp)
    · exact .jump rfl ((UnchangedExcept.refl _ s).dropTop (.inr (.inr rfl)))
  · rename_i hsp
    exact .stops (.inl rfl) (by simpa [State.spValid] using hsp)

theorem callWithFullStack_ends (nnn : Word) (s : State) : ExecEnds (.call nnn) s (callWithFullStack nnn s) := by
  unfold callWithFullStack
  split
  · exact .raises (by simp)
  · exact .jumpsNoPush rfl ‹_›

theorem execCall_ends (nnn : Word) (s : State) : ExecEnds (.call nnn) s (execCall nnn s) := by
  unfold execCall
  split
  · rename_i hsp
    split
    · exact callWithFullStack_ends nnn s
    · have hle : s.sp.toNat ≤ 16 := of_decide_eq_true hsp
      exact .jump rfl ((UnchangedExcept.refl _ s).push (by simp [mayWrite]) (by simp [mayWrite]) (by omega) _)
  · rename_i hsp
    exact .stops (.inr ⟨nnn, rfl⟩) (by simpa [State.spValid] using hsp)

theorem skipOnKey_ends {x : RegIdx} {b : Bool}
    (hpc : normPc s.cfg (s.pc.toNat + if s.key ((s.readV x).toNat % 16) == b then 4 else 2) = pcAfter i s) :
    ExecEnds i s (skipOnKey b x s) := by
  by_cases h : s.cfg.keyIndexMode = .mask ∨ (s.readV x).toNat ≤ 15
  · rw [skipOnKey_ok h]
    exact .skips hpc
  · obtain ⟨hm, hx⟩ := not_or.mp h
    have hf : s.cfg.keyIndexMode = .fault := by
      cases hk : s.cfg.keyIndexMode with
      | mask => exact absurd hk hm
      | fault => rfl
    rw [skipOnKey_error hf (by omega)]
    exact .raises (by simp)

theorem execLdK_ends (x : RegIdx) (s : State) : ExecEnds (.ldK x) s (execLdK x s) := by
  unfold execLdK
  split
  · exact .raises (by simp)
  · exact .writesV rfl (.inr (.inr rfl))

theorem execDrw_ends (x y : RegIdx) (n : Nat) (s : State) : ExecEnds (.drw x y n) s (execDrw x y n s) := by
  by_cases hr : TransferInRange s.cfg s.i.toNat n
  · obtain ⟨rows, -, he⟩ := execDrw_in hr x y
    have hframe := (UnchangedExcept.refl (mayWrite (.drw x y n) s) s).setDisplay
      (by simp [mayWrite]) (by simp [mayWrite])
      (s.drawing (s.readV x).toNat (s.readV y).toNat rows)
    rw [he]
    exact .jump rfl (hframe.writeV (by simp [mayWrite]) _)
  · rw [execDrw_out hr]
    exact .raises (by simp)

/-- A store at I, by an instruction that may write every address of the transfer. -/
theorem storeAtIndex_ends {bs : List Byte} (hpc : normPc s.cfg (s.pc.toNat + 2) = pcAfter i s)
    (hsmall : bs.length ≤ 4096)
    (hw : ∀ k < bs.length, ∀ a, AddressIs s.cfg (s.i.toNat + k) a → mayWrite i s (.byte a)) :
    ExecEnds i s (storeAtIndex bs s) := by
  by_cases hr : TransferInRange s.cfg s.i.toNat bs.length
  · obtain ⟨m, he, -, hout, -⟩ := storeAtIndex_in hr hsmall
    rw [he]
    exact .jump hpc (.setMem fun a ha => hout a fun k hk hak => ha (hw k hk a hak))
  · rw [storeAtIndex_out hr]
    exact .raises (by simp)

theorem execLdRegs_ends (x : RegIdx) (s : State) : ExecEnds (.ldRegs x) s (execLdRegs x s) := by
  by_cases hr : TransferInRange s.cfg s.i.toNat (x.val + 1)
  · obtain ⟨bs, hlen, -, he⟩ := execLdRegs_in hr
    have hframe : UnchangedExcept (mayWrite (.ldRegs x) s) s (s.writeRegsFrom 0 bs) :=
      .writeRegsFrom fun r hlt => .inr (.inr ⟨r, Fin.le_def.mpr (by omega), rfl⟩)
    rw [he]
    refine .jump ?_ hframe
    rw [State.writeRegsFrom_eq]
    rfl
  · rw [execLdRegs_out hr]
    exact .raises (by simp)

end

/-- Every instruction ends in one of the four ways, from every state. -/
theorem exec_ends (i : Instr) (s : State) : ExecEnds i s (exec i s) := by
  cases i with
  | cls =>
    exact .jump rfl ((UnchangedExcept.refl _ s).clearDisplay (by simp [mayWrite]) (by simp [mayWrite])
      (by simp [mayWrite]))
  | ret => exact execRet_ends s
  | call nnn => exact execCall_ends nnn s
  | jp | jpV0 => exact .jump rfl (.refl _ s)
  | seImm | seReg => exact .skips (by rw [byte_beq_eq_decide]; rfl)
  | sneImm | sneReg => exact .skips (by rw [byte_bne_eq_decide]; rfl)
  | ldImm | addImm | ldReg | or | and | xor | ldVDt => exact .writesV rfl (.inr (.inr rfl))
  | addReg | sub | shr | subn | shl => exact .writesResultAndFlag rfl (by simp [mayWrite]) (by simp [mayWrite])
  | rnd x kk =>
    exact .jump rfl (((UnchangedExcept.refl _ s).countDraw (by simp [mayWrite])).writeV (by simp [mayWrite]) _)
  | ldDtV => exact .jump rfl ((UnchangedExcept.refl _ s).setDt (.inr (.inr rfl)) _)
  | ldStV => exact .jump rfl ((UnchangedExcept.refl _ s).setSt (.inr (.inr rfl)) _)
  | ldIdx | ldF => exact .jump rfl ((UnchangedExcept.refl _ s).setI (.inr (.inr rfl)) _)
  | addIdx x =>
    exact .jump rfl (((UnchangedExcept.refl _ s).setI (by simp [mayWrite]) _).writeV (by simp [mayWrite]) _)
  | drw x y n => exact execDrw_ends x y n s
  | skp x => exact skipOnKey_ends (by rw [beq_true]; rfl)
  | sknp x => exact skipOnKey_ends (by rw [beq_false]; rfl)
  | ldK x => exact execLdK_ends x s
  | ldB x => exact storeAtIndex_ends rfl (by simp [bcdDigits]) fun k hk a ha => .inr (.inr ⟨k, a, hk, ha, rfl⟩)
  | stRegs x =>
    have hlen := s.regsUpTo_length x
    exact storeAtIndex_ends rfl (by omega) fun k hk a ha => .inr (.inr ⟨k, a, by omega, ha, rfl⟩)
  | ldRegs x => exact execLdRegs_ends x s

theorem exec_faults_of_sp_gt {i : Instr} {s : State} (hsp : s.sp.toNat > 16) (hi : i = .ret ∨ ∃ nnn, i = .call nnn) :
    exec i s = .fault .stackPointerOutOfRange := by
  have hv : ¬ s.spValid = true := by simpa [State.spValid] using hsp
  obtain rfl | ⟨nnn, rfl⟩ := hi
  · exact if_neg hv
  · exact if_neg hv

/-- Settles O24, by the four ways an instruction ends. -/
theorem onlyABadStackPointerStops : Obligations.OnlyABadStackPointerStops := by
  intro i s
  refine ⟨fun r hr => ?_, fun ⟨f, hf⟩ => ?_, fun ⟨hsp, hi⟩ => ⟨_, exec_faults_of_sp_gt hsp hi⟩⟩
  · have h := exec_ends i s
    rw [hr] at h
    cases h
  · have h := exec_ends i s
    rw [hf] at h
    cases h with
    | stops hi hsp => exact ⟨hsp, hi⟩

/-- What `exec` answers when it answers a next state. -/
theorem exec_next_cases {i : Instr} {s t : State} (h : exec i s = .next t) :
    (t.event = .evNone ∧ t.pc = pcAfter i s ∧ UnchangedExcept (mayWrite i s) s t) ∨
    (∃ e, e ≠ .evNone ∧ t = s.setEvent e) ∨
    ∃ nnn, i = .call nnn ∧ s.cfg.callOverflow = .jumpNoPush ∧
      t = (s.jump nnn.toNat).setEvent (.stackOverflow s.pc) := by
  have hends := exec_ends i s
  rw [h] at hends
  cases hends with
  | completes hpc hframe => exact .inl ⟨rfl, hpc, hframe.setEvent (mayWrite_event i s) _⟩
  | raises he => exact .inr (.inl ⟨_, he, rfl⟩)
  | jumpsNoPush hi hm => exact .inr (.inr ⟨_, hi, hm, rfl⟩)

/-- Settles O53: a completed instruction keeps to its row, and one that reports an event writes PC and the port only. -/
theorem instructionsWriteOnlyTheirState : Obligations.InstructionsWriteOnlyTheirState := by
  intro i s t h
  have hrefl := UnchangedExcept.refl (mayWrite i s) s
  obtain ⟨-, -, hframe⟩ | ⟨e, -, rfl⟩ | ⟨nnn, -, -, rfl⟩ := exec_next_cases h
  · exact hframe
  · exact hrefl.setEvent (mayWrite_event i s) e
  · exact (hrefl.jump (mayWrite_pc i s) _).setEvent (mayWrite_event i s) _

/-- Settles O54, by what `exec` answers. -/
theorem pcAfterEveryInstruction : Obligations.PcAfterEveryInstruction := by
  intro i s t h
  obtain ⟨he, hpc, -⟩ | ⟨e, he, rfl⟩ | ⟨nnn, hi, hm, rfl⟩ := exec_next_cases h
  · exact ⟨fun _ => hpc, fun hne => absurd he hne⟩
  · exact ⟨fun heq => absurd heq he, fun _ => .inl rfl⟩
  · exact ⟨fun heq => by simp at heq, fun _ => .inr ⟨nnn, hi, hm, rfl⟩⟩

end Sys2Proof.Machine
end

section
/-! PROOFS. What a program cannot observe: DIRTY, FULL_REDRAW, ST, SPEED and the event port (10_state.md R39). -/

namespace Sys2Proof.Machine

/-! ### States that a program cannot tell apart

Such a pair is `s` and `s.withHidden r`. An update that neither reads nor is steered by hidden state gives such a pair
again by definition; the lemmas are about the others: those that branch, loop or draw. -/

/-- `s` with the state that a program cannot observe taken from `r`. -/
def State.withHidden (s r : State) : State :=
  { s with dirty := r.dirty, fullRedraw := r.fullRedraw, st := r.st, speed := r.speed, event := r.event }

theorem SameForProgram.eq_withHidden {s t : State} (h : SameForProgram s t) : t = s.withHidden t := h

theorem SameForProgram.setEvent {s t : State} (h : SameForProgram s t) (e : Event) :
    SameForProgram (s.setEvent e) (t.setEvent e) := by
  rw [h.eq_withHidden]
  rfl

theorem SameForProgram.advance {s t : State} (h : SameForProgram s t) : SameForProgram s.advance t.advance := by
  rw [h.eq_withHidden]
  rfl

section
variable (s r : State)

theorem sameForProgram_withHidden : SameForProgram s (s.withHidden r) := rfl

theorem skipIf_withHidden (c : Bool) : (s.withHidden r).skipIf c = (s.skipIf c).withHidden r := by
  cases c <;> rfl

theorem writeRegsFrom_withHidden (k : Nat) (bs : List Byte) :
    (s.withHidden r).writeRegsFrom k bs = (s.writeRegsFrom k bs).withHidden r := by
  induction bs generalizing s k with
  | nil => rfl
  | cons b bs ih =>
    have hw : (s.withHidden r).writeVNat k b = (s.writeVNat k b).withHidden r := by
      unfold State.writeVNat
      split <;> rfl
    rw [State.writeRegsFrom, hw, ih]
    rfl

/-- The tick's decrement of DT is the same, since TIMER_MODE and DT are. -/
theorem sameForProgram_tickTimers : SameForProgram (tickTimers s) (tickTimers (s.withHidden r)) := by
  cases hm : s.cfg.timerMode with
  | coupled => rw [tickTimers_coupled hm, tickTimers_coupled (s := s.withHidden r) hm]; rfl
  | independent => rw [tickTimers_independent hm, tickTimers_independent (s := s.withHidden r) hm]; rfl

/-! ### Memory -/

theorem loadBytes_withHidden (v n : Nat) : loadBytes (s.withHidden r) v n = loadBytes s v n := by
  induction n generalizing v with
  | zero => rfl
  | succ n ih =>
    have hb : loadByte (s.withHidden r) v = loadByte s v := rfl
    rw [loadBytes, loadBytes, hb, ih]

theorem writeByte_withHidden (a : Nat) (b : Byte) :
    (s.withHidden r).writeByte a b = (s.writeByte a b).withHidden r := by
  by_cases ha : a < 4096
  · rw [State.writeByte_of_lt _ ha, State.writeByte_of_lt _ ha]
    rfl
  · rw [State.writeByte_of_not_lt _ ha, State.writeByte_of_not_lt _ ha]

theorem writeAll_withHidden (as : List Nat) (bs : List Byte) :
    writeAll (s.withHidden r) as bs = (writeAll s as bs).map (State.withHidden · r) := by
  induction as generalizing s bs with
  | nil => cases bs <;> rfl
  | cons a as ih =>
    cases bs with
    | nil => rfl
    | cons b bs =>
      by_cases ha : a < 4096
      · simp only [writeAll, memWrite, if_pos ha, writeByte_withHidden, ih]
      · simp only [writeAll, memWrite, if_neg ha, Except.map]

theorem storeBytes_withHidden (v : Nat) (bs : List Byte) :
    storeBytes (s.withHidden r) v bs = (storeBytes s v bs).map (State.withHidden · r) := by
  have hc : (s.withHidden r).cfg = s.cfg := rfl
  unfold storeBytes
  rw [hc]
  cases formAddrs s.cfg v bs.length with
  | error e => rfl
  | ok as => exact writeAll_withHidden s r as bs

/-! ### Drawing: the pixels and the collision do not depend on the dirty flags -/

theorem drawing_withHidden_fb (px py : Nat) (rows : List Byte) :
    ((s.withHidden r).drawing px py rows).fb = (s.drawing px py rows).fb :=
  Grid.ext fun x y hs =>
    (((s.withHidden r).drawing_drawn px py rows).fb x y hs).trans ((s.drawing_drawn px py rows).fb x y hs).symm

theorem drawing_withHidden_coll (px py : Nat) (rows : List Byte) :
    ((s.withHidden r).drawing px py rows).coll = (s.drawing px py rows).coll :=
  Bool.eq_iff_iff.mpr (((s.withHidden r).drawing_coll px py rows).trans (s.drawing_coll px py rows).symm)

theorem sameForProgram_drawSprite (px py : Nat) (rows : List Byte) :
    SameForProgram (drawSprite s px py rows) (drawSprite (s.withHidden r) px py rows) := by
  unfold drawSprite State.setDisplay
  rw [drawing_withHidden_fb, drawing_withHidden_coll]
  rfl

end

/-! ### How an instruction ends -/

/-- If the first outcome is a next state, the second is one of the same event that a program cannot tell from it. -/
def Follows (o o' : Outcome) : Prop :=
  ∀ s', o = .next s' → ∃ t', o' = .next t' ∧ SameForProgram s' t' ∧ t'.event = s'.event

section
variable {s t : State}

theorem Follows.next (h : SameForProgram s t) (e : Event) : Follows (.next (s.setEvent e)) (.next (t.setEvent e)) := by
  rintro _ ⟨⟩
  exact ⟨_, rfl, h.setEvent e, rfl⟩

theorem Follows.raise (h : SameForProgram s t) (e : Event) : Follows (raise e s) (raise e t) := .next h e

theorem Follows.complete (h : SameForProgram s t) : Follows (complete s) (complete t) := .next h .evNone

theorem Follows.fault (f : Fault) : Follows (.fault f) (.fault f) := by
  rintro _ ⟨⟩

theorem Follows.ite {c : Prop} [Decidable c] {o₁ o₁' o₂ o₂' : Outcome} (h₁ : Follows o₁ o₁') (h₂ : Follows o₂ o₂') :
    Follows (if c then o₁ else o₂) (if c then o₁' else o₂') := by
  split
  · exact h₁
  · exact h₂

/-- Both commit what they compute from the same result, or both raise the same event. -/
theorem Follows.commit {α : Type} (h : SameForProgram s t) (e : Except Event α) {f g : α → State}
    (hfg : ∀ a, SameForProgram (f a) (g a)) : Follows (commit s (e.map f)) (commit t (e.map g)) := by
  cases e with
  | error e => exact .raise h e
  | ok a => exact .complete (hfg a)

end

/-! ### Every instruction, and the tick -/

section
variable (s r : State)

theorem skipIf_follows (c : Bool) : Follows (complete (s.skipIf c)) (complete ((s.withHidden r).skipIf c)) := by
  rw [skipIf_withHidden]
  exact .complete rfl

theorem execRet_follows : Follows (execRet s) (execRet (s.withHidden r)) :=
  .ite (.ite (.raise (sameForProgram_withHidden s r) _) (.complete rfl)) (.fault _)

theorem callWithFullStack_follows (nnn : Word) :
    Follows (callWithFullStack nnn s) (callWithFullStack nnn (s.withHidden r)) := by
  have hc : (s.withHidden r).cfg = s.cfg := rfl
  unfold callWithFullStack
  rw [hc]
  split
  · exact .raise (sameForProgram_withHidden s r) _
  · exact .next (sameForProgram_withHidden (s.jump nnn.toNat) r) _

theorem execCall_follows (nnn : Word) : Follows (execCall nnn s) (execCall nnn (s.withHidden r)) :=
  .ite (.ite (callWithFullStack_follows s r nnn) (.complete rfl)) (.fault _)

theorem skipOnKey_follows (b : Bool) (x : RegIdx) : Follows (skipOnKey b x s) (skipOnKey b x (s.withHidden r)) :=
  .commit (sameForProgram_withHidden s r) (keyIndex s.cfg (s.readV x)) fun k => by
    rw [skipIf_withHidden]
    rfl

theorem execLdK_follows (x : RegIdx) : Follows (execLdK x s) (execLdK x (s.withHidden r)) := by
  have hk : lowestHeldKey (s.withHidden r) = lowestHeldKey s := rfl
  unfold execLdK
  rw [hk]
  split
  · exact .raise (sameForProgram_withHidden s r) _
  · exact .complete rfl

theorem execDrw_follows (x y : RegIdx) (n : Nat) : Follows (execDrw x y n s) (execDrw x y n (s.withHidden r)) := by
  have hi : (s.withHidden r).i = s.i := rfl
  unfold execDrw
  rw [hi, loadBytes_withHidden]
  exact .commit (sameForProgram_withHidden s r) _ fun rows => (sameForProgram_drawSprite s r _ _ rows).advance

theorem storeAtIndex_follows (bs : List Byte) : Follows (storeAtIndex bs s) (storeAtIndex bs (s.withHidden r)) := by
  have hi : (s.withHidden r).i = s.i := rfl
  unfold storeAtIndex
  rw [hi, storeBytes_withHidden]
  cases storeBytes s s.i.toNat bs with
  | error e => exact .raise (sameForProgram_withHidden s r) e
  | ok t => exact .complete rfl

theorem execLdRegs_follows (x : RegIdx) : Follows (execLdRegs x s) (execLdRegs x (s.withHidden r)) := by
  have hi : (s.withHidden r).i = s.i := rfl
  unfold execLdRegs
  rw [hi, loadBytes_withHidden]
  refine .commit (sameForProgram_withHidden s r) _ fun bs => ?_
  rw [writeRegsFrom_withHidden]
  rfl

theorem exec_follows (i : Instr) : Follows (exec i s) (exec i (s.withHidden r)) := by
  cases i with
  | ret => exact execRet_follows s r
  | call nnn => exact execCall_follows s r nnn
  | seImm | sneImm | seReg | sneReg => exact skipIf_follows s r _
  | cls | jp | jpV0 => exact .complete rfl
  | ldImm | addImm | ldReg | or | and | xor | addReg | sub | shr | subn | shl | rnd => exact .complete rfl
  | ldVDt | ldDtV | ldStV | ldIdx | addIdx | ldF => exact .complete rfl
  | drw x y n => exact execDrw_follows s r x y n
  | skp x | sknp x => exact skipOnKey_follows s r _ x
  | ldK x => exact execLdK_follows s r x
  | ldB | stRegs => exact storeAtIndex_follows s r _
  | ldRegs x => exact execLdRegs_follows s r x

theorem step_follows : Follows (step s) (step (s.withHidden r)) := by
  by_cases hrun : s.run = .running
  · have hrun' : (s.withHidden r).run = .running := hrun
    rw [step_running hrun, step_running hrun', (sameForProgram_tickTimers s r).eq_withHidden]
    have hf (u v : State) : fetch (u.withHidden v) = fetch u := fetch_congr rfl rfl rfl
    unfold fetchDecodeExecute
    rw [hf]
    split
    · exact .raise (sameForProgram_withHidden _ _) _
    · unfold execDecoded
      split
      · exact exec_follows _ _ _
      · exact .raise (sameForProgram_withHidden _ _) _
  · rw [step_not_running hrun, step_not_running (s := s.withHidden r) hrun]
    exact .complete rfl

end

/-- Settles O57: every step of `s` is followed by a step of `s` with other hidden state. -/
theorem programCannotObserveTheRenderersState : Obligations.ProgramCannotObserveTheRenderersState := by
  intro s t s' hst hs
  rw [hst.eq_withHidden]
  exact step_follows s t s' hs

end Sys2Proof.Machine
end

section
/-! PROOFS. The memory (20_memory.md): its two ports (R55), and that a store is seen by the next fetch (R63). -/

namespace Sys2Proof.Machine

/-! ### The ports (R55) -/

section
variable (s : State) {a : Nat}

theorem memRead_of_lt (h : a < 4096) : memRead s a = .ok (s.readByte a) := if_pos h

theorem memRead_of_not_lt (h : ¬ a < 4096) : memRead s a = .error (.invalidAddress a) := if_neg h

theorem memWrite_of_lt (h : a < 4096) (b : Byte) : memWrite s a b = .ok (s.writeByte a b) := if_pos h

theorem memWrite_of_not_lt (h : ¬ a < 4096) (b : Byte) : memWrite s a b = .error (.invalidAddress a) := if_neg h

theorem State.readByte_writeByte_same (h : a < 4096) (b : Byte) : (s.writeByte a b).readByte a = b := by
  rw [State.readByte_writeByte s h, if_pos rfl]

theorem State.readByte_writeByte_of_ne (h : a < 4096) (b : Byte) {c : Nat} (hc : c ≠ a) :
    (s.writeByte a b).readByte c = s.readByte c := by
  rw [State.readByte_writeByte s h, if_neg hc]

theorem unchangedExcept_writeByte (h : a < 4096) (b : Byte) :
    UnchangedExcept (fun p => p = .byte a) s (s.writeByte a b) := by
  rw [State.writeByte_eq]
  refine .setMem fun c hc => ?_
  rw [← State.writeByte_eq]
  exact s.readByte_writeByte_of_ne h b fun hca => hc (congrArg Part.byte hca)

end

/-- Settles O41, by whether the address lies in memory. -/
theorem memoryPortsReadBackAndRejectOutside : Obligations.MemoryPortsReadBackAndRejectOutside := by
  intro s a b
  constructor
  · intro ha
    have h : a < 4096 := by omega
    have hback : memRead (s.writeByte a b) a = .ok b := by
      rw [memRead_of_lt _ h, s.readByte_writeByte_same h]
    exact ⟨memRead_of_lt s h, _, memWrite_of_lt s h b, hback, fun c => s.readByte_writeByte_of_ne h b,
      unchangedExcept_writeByte s h b⟩
  · intro ha
    have h : ¬ a < 4096 := by omega
    exact ⟨memRead_of_not_lt s h, memWrite_of_not_lt s h b, s.writeByte_of_not_lt h b⟩

/-! ### A store into code (R63; 70_reset_and_hazards.md R251) -/

/-- An Fx55 that completes without an event leaves V[q] at A(I + q) for each q up to x, and the parameters as they were
(42_index_memory.md R154). -/
theorem execStRegs_stores {x : RegIdx} {s t : State} (h : execStRegs x s = .next t) (he : t.event = .evNone) :
    t.cfg = s.cfg ∧ ∀ (q : RegIdx) (a : Nat), q ≤ x → AddressIs s.cfg (s.i.toNat + q.val) a → t.readByte a = s.readV q := by
  have hlen := s.regsUpTo_length x
  rw [execStRegs] at h
  by_cases hr : TransferInRange s.cfg s.i.toNat (s.regsUpTo x).length
  · obtain ⟨m, hm, -, -, hstored⟩ := storeAtIndex_in hr (by omega)
    rw [hm] at h
    cases h
    refine ⟨rfl, fun q a hq ha => ?_⟩
    have hlt : q.val < (s.regsUpTo x).length := hlen ▸ Nat.lt_succ_of_le hq
    have hbyte := hstored q.val hlt a ha
    rw [State.regsUpTo_get s x q hq] at hbyte
    exact (Option.some.inj hbyte).symm
  · rw [storeAtIndex_out hr] at h
    cases h
    cases he

/-- Settles O40: the fetch reads MEM as the Fx55 left it. -/
theorem storedCodeIsFetchedAtOnce : Obligations.StoredCodeIsFetchedAtOnce := by
  intro x q r s t a b h he hqr hr ha hb hpc hpc'
  obtain ⟨hcfg, hstored⟩ := execStRegs_stores h he
  have hq : q ≤ x := le_trans (Fin.le_def.mpr (by omega)) hr
  rw [← hcfg] at hpc hpc'
  rw [fetch_of_addrs hpc hpc', hstored q a hq ha, hstored r b hr hb]

end Sys2Proof.Machine
end

section
/-! PROOFS. The encoding (30_encoding.md): the fields of a word (R76), the decoder against the encoder and the opcode
table (R74, R79 to R86), and how a tick fetches and dispatches a word (R70 to R72). -/

namespace Sys2Proof

/-! ### The fields of a word (R76) -/

/-- Settles O5, by the value of each slice. -/
theorem fieldsAreTheBitSlices : Obligations.FieldsAreTheBitSlices :=
  fun op => ⟨opX_val op, opY_val op, opN_eq op, opKK_toNat op, opNNN_toNat op⟩

/-- Settles O6, by evaluating the decoder on the six words of R75. -/
theorem exampleWordsDecode : Obligations.ExampleWordsDecode := by
  refine ⟨?_, ?_, ?_, ?_, ?_, ?_⟩ <;> decide

/-! ### The word of an instruction decodes to it (R74, R79) -/

/-- The function byte of a word of format XFF is what was put in. -/
theorem formXKK_functionByte {op : Nat} (h : op < 16) (x : RegIdx) (b : Byte) : slice (formXKK op x b) 0 8 = b :=
  (formXKK_fields h x b).2.2

/-- Settles O1, by the format of the instruction: every slice the decoder reads is the field the encoder put there. -/
theorem decodeOfEncodeIsTheInstruction : Obligations.DecodeOfEncodeIsTheInstruction := by
  intro i hw
  cases i with
  | cls | ret => decide
  | jp nnn | call nnn | ldIdx nnn | jpV0 nnn =>
    have hfit : nnnFits nnn = true := hw
    simp [encode, decode, formNNN_fields, hfit]
  | seImm | sneImm | ldImm | addImm | rnd => simp [encode, decode, formXKK_fields]
  | seReg | sneReg => simp [encode, decode, formXYN_fields]
  | ldReg | or | and | xor | addReg | sub | shr | subn | shl => simp [encode, decode, decode8, formXYN_fields]
  | drw x y n =>
    have hn : n < 16 := Nat.lt_succ_of_le (of_decide_eq_true hw)
    simp [encode, decode, formXYN_fields, hn]
  | skp | sknp => simp [encode, decode, decodeE, formXKK_fields, formXKK_functionByte]
  | ldVDt | ldK | ldDtV | ldStV | addIdx | ldF | ldB | stRegs | ldRegs =>
    simp [encode, decode, decodeF, formXKK_fields, formXKK_functionByte]

/-! ### A word is the format of its own fields (R74, R76) -/

section
variable {op : Word} {k : Nat} (hk : slice op 12 4 = BitVec.ofNat 4 k)
include hk

theorem formNNN_of_slices : formNNN k (opNNN op) = op := by
  rw [slice_eq_iff, BitVec.toNat_ofNat] at hk
  apply BitVec.eq_of_toNat_eq
  rw [formNNN, BitVec.toNat_ofNat, opNNN_toNat]
  omega

theorem formXKK_of_slices : formXKK k (opX op) (opKK op) = op := by
  rw [slice_eq_iff, BitVec.toNat_ofNat] at hk
  apply BitVec.eq_of_toNat_eq
  rw [formXKK, BitVec.toNat_ofNat, opX_val, opKK_toNat]
  omega

theorem formXFF_of_slices {b : Byte} (hb : slice op 0 8 = b) : formXKK k (opX op) b = op :=
  hb ▸ formXKK_of_slices hk

theorem formXYN_of_slices : formXYN k (opX op) (opY op) (opN op) = op := by
  rw [slice_eq_iff, BitVec.toNat_ofNat] at hk
  apply BitVec.eq_of_toNat_eq
  rw [formXYN, BitVec.toNat_ofNat, opX_val, opY_val, opN_eq]
  omega

theorem formXYF_of_slices {n : Nat} (hn : slice op 0 4 = BitVec.ofNat 4 n) : formXYN k (opX op) (opY op) n = op := by
  have hmod : opN op = n % 16 := by rw [opN, hn, BitVec.toNat_ofNat]
  have hform := formXYN_of_slices hk
  rwa [hmod, formXYN, Nat.mod_mod, ← formXYN] at hform

end

/-! ### Every assigned word is the word of its instruction (R81, R84) -/

theorem encode_of_decode0 {op : Word} {i : Instr} (h : decode0 op = .instr i) : encode i = op := by
  unfold decode0 at h
  split_ifs at h with hcls hret
  · cases h; exact hcls.symm
  · cases h; exact hret.symm

theorem encode_of_decode8 {op : Word} {i : Instr} (hk : slice op 12 4 = 0x8#4) (h : decode8 op = .instr i) :
    encode i = op := by
  unfold decode8 at h
  split at h <;> cases h <;> exact formXYF_of_slices hk ‹_›

theorem encode_of_decodeE {op : Word} {i : Instr} (hk : slice op 12 4 = 0xE#4) (h : decodeE op = .instr i) :
    encode i = op := by
  unfold decodeE at h
  split at h <;> cases h <;> exact formXFF_of_slices hk ‹_›

theorem encode_of_decodeF {op : Word} {i : Instr} (hk : slice op 12 4 = 0xF#4) (h : decodeF op = .instr i) :
    encode i = op := by
  unfold decodeF at h
  split at h <;> cases h <;> exact formXFF_of_slices hk ‹_›

theorem encode_of_decode {op : Word} {i : Instr} (h : decode op = .instr i) : encode i = op := by
  unfold decode at h
  split at h <;> rename_i hk
  case h_1 => exact encode_of_decode0 h
  case h_2 | h_3 | h_11 | h_12 => cases h; exact formNNN_of_slices hk
  case h_4 | h_5 | h_7 | h_8 | h_13 => cases h; exact formXKK_of_slices hk
  case h_6 | h_10 => split at h <;> cases h; exact formXYF_of_slices hk ‹_›
  case h_9 => exact encode_of_decode8 hk h
  case h_14 => cases h; exact formXYN_of_slices hk
  case h_15 => exact encode_of_decodeE hk h
  case h_16 => exact encode_of_decodeF hk h
  case h_17 => cases h

/-- Settles O2, by the branches of the decoder. -/
theorem encodeOfDecodeIsTheWord : Obligations.EncodeOfDecodeIsTheWord :=
  fun _ _ h => ⟨decode_wellFormed h, encode_of_decode h⟩

/-! ### The unassigned words (R80, R82) -/

theorem decode0_unassigned_iff (op : Word) :
    decode0 op = .unassigned op ↔ op.toNat ≠ 0x00E0 ∧ op.toNat ≠ 0x00EE := by
  have hcls : op = 0x00E0#16 ↔ op.toNat = 0x00E0 := BitVec.toNat_inj.symm
  have hret : op = 0x00EE#16 ↔ op.toNat = 0x00EE := BitVec.toNat_inj.symm
  unfold decode0
  split_ifs <;> simp_all

theorem decode8_unassigned_iff (op : Word) :
    decode8 op = .unassigned op ↔ op.toNat % 16 ∈ [0x8, 0x9, 0xA, 0xB, 0xC, 0xD, 0xF] := by
  unfold decode8
  split <;> simp_all [slice_eq_iff]
  omega

theorem decodeE_unassigned_iff (op : Word) : decodeE op = .unassigned op ↔ op.toNat % 256 ∉ [0x9E, 0xA1] := by
  unfold decodeE
  split <;> simp_all [slice_eq_iff]

theorem decodeF_unassigned_iff (op : Word) :
    decodeF op = .unassigned op ↔
      op.toNat % 256 ∉ [0x07, 0x0A, 0x15, 0x18, 0x1E, 0x29, 0x33, 0x55, 0x65] := by
  unfold decodeF
  split <;> simp_all [slice_eq_iff]

/-- The words of the spec's list of unassigned words (R82). -/
def ListedUnassigned (op : Word) : Prop :=
  (op.toNat ≤ 0x0FFF ∧ op.toNat ≠ 0x00E0 ∧ op.toNat ≠ 0x00EE) ∨
  (op.toNat / 4096 = 5 ∧ op.toNat % 16 ≠ 0) ∨
  (op.toNat / 4096 = 8 ∧ op.toNat % 16 ∈ [0x8, 0x9, 0xA, 0xB, 0xC, 0xD, 0xF]) ∨
  (op.toNat / 4096 = 9 ∧ op.toNat % 16 ≠ 0) ∨
  (op.toNat / 4096 = 0xE ∧ op.toNat % 256 ∉ [0x9E, 0xA1]) ∨
  (op.toNat / 4096 = 0xF ∧ op.toNat % 256 ∉ [0x07, 0x0A, 0x15, 0x18, 0x1E, 0x29, 0x33, 0x55, 0x65])

/-- On the words of one high nibble, the list says what its line for that nibble says. -/
theorem listedUnassigned_iff_of_high {op : Word} {h : BitVec 4} (hk : slice op 12 4 = h) :
    ListedUnassigned op ↔
      (h = 0 ∧ op.toNat ≠ 0x00E0 ∧ op.toNat ≠ 0x00EE) ∨
      (h = 5 ∧ op.toNat % 16 ≠ 0) ∨
      (h = 8 ∧ op.toNat % 16 ∈ [0x8, 0x9, 0xA, 0xB, 0xC, 0xD, 0xF]) ∨
      (h = 9 ∧ op.toNat % 16 ≠ 0) ∨
      (h = 0xE ∧ op.toNat % 256 ∉ [0x9E, 0xA1]) ∨
      (h = 0xF ∧ op.toNat % 256 ∉ [0x07, 0x0A, 0x15, 0x18, 0x1E, 0x29, 0x33, 0x55, 0x65]) := by
  have hhigh (c : BitVec 4) : h = c ↔ op.toNat / 4096 = c.toNat := by
    rw [← hk, slice_eq_iff]
    omega
  have hzero : op.toNat / 4096 = 0 ↔ op.toNat ≤ 0x0FFF := by omega
  simp [ListedUnassigned, hhigh, hzero]

theorem lowNibble_eq_zero_iff (op : Word) : slice op 0 4 = 0#4 ↔ op.toNat % 16 = 0 := by
  simp [slice_eq_iff]

theorem decode_unassigned_iff (op : Word) : decode op = .unassigned op ↔ ListedUnassigned op := by
  unfold decode
  split <;> rename_i hk
  case h_1 => simp [listedUnassigned_iff_of_high hk, decode0_unassigned_iff]
  case h_6 | h_10 => split <;> simp_all [listedUnassigned_iff_of_high hk, lowNibble_eq_zero_iff]
  case h_9 => simp [listedUnassigned_iff_of_high hk, decode8_unassigned_iff]
  case h_15 => simp [listedUnassigned_iff_of_high hk, decodeE_unassigned_iff]
  case h_16 => simp [listedUnassigned_iff_of_high hk, decodeF_unassigned_iff]
  case h_17 => exfalso; simp_all [slice_eq_iff]; omega
  all_goals simp [listedUnassigned_iff_of_high hk]

/-- Every leaf of the decoder is an instruction or the word itself, unassigned. -/
theorem decode_cases (op : Word) : decode op = .unassigned op ∨ ∃ i, decode op = .instr i := by
  unfold decode decode0 decode8 decodeE decodeF
  repeat' split
  all_goals simp

/-- Settles O4, by the high nibble: what the decoder leaves unassigned is the list's line for that nibble. -/
theorem unassignedWordsAreExactlyTheListedOnes : Obligations.UnassignedWordsAreExactlyTheListedOnes :=
  fun op => ⟨(decode_unassigned_iff op).mpr,
    fun h => (decode_cases op).resolve_left (mt (decode_unassigned_iff op).mp h)⟩

/-! ### The rows of the opcode table (R79, R84, R86) -/

theorem encode_fits_row : ∀ i : Instr, i.row.fits (encode i) = true
  | .cls => Laws.EncodingFitsRow.cls
  | .ret => Laws.EncodingFitsRow.ret
  | .jp _ => Laws.EncodingFitsRow.jp _
  | .call _ => Laws.EncodingFitsRow.call _
  | .seImm _ _ => Laws.EncodingFitsRow.seImm _ _
  | .sneImm _ _ => Laws.EncodingFitsRow.sneImm _ _
  | .seReg _ _ => Laws.EncodingFitsRow.seReg _ _
  | .ldImm _ _ => Laws.EncodingFitsRow.ldImm _ _
  | .addImm _ _ => Laws.EncodingFitsRow.addImm _ _
  | .ldReg _ _ => Laws.EncodingFitsRow.ldReg _ _
  | .or _ _ => Laws.EncodingFitsRow.or _ _
  | .and _ _ => Laws.EncodingFitsRow.and _ _
  | .xor _ _ => Laws.EncodingFitsRow.xor _ _
  | .addReg _ _ => Laws.EncodingFitsRow.addReg _ _
  | .sub _ _ => Laws.EncodingFitsRow.sub _ _
  | .shr _ _ => Laws.EncodingFitsRow.shr _ _
  | .subn _ _ => Laws.EncodingFitsRow.subn _ _
  | .shl _ _ => Laws.EncodingFitsRow.shl _ _
  | .sneReg _ _ => Laws.EncodingFitsRow.sneReg _ _
  | .ldIdx _ => Laws.EncodingFitsRow.ldIdx _
  | .jpV0 _ => Laws.EncodingFitsRow.jpV0 _
  | .rnd _ _ => Laws.EncodingFitsRow.rnd _ _
  | .drw _ _ _ => Laws.EncodingFitsRow.drw _ _ _
  | .skp _ => Laws.EncodingFitsRow.skp _
  | .sknp _ => Laws.EncodingFitsRow.sknp _
  | .ldVDt _ => Laws.EncodingFitsRow.ldVDt _
  | .ldK _ => Laws.EncodingFitsRow.ldK _
  | .ldDtV _ => Laws.EncodingFitsRow.ldDtV _
  | .ldStV _ => Laws.EncodingFitsRow.ldStV _
  | .addIdx _ => Laws.EncodingFitsRow.addIdx _
  | .ldF _ => Laws.EncodingFitsRow.ldF _
  | .ldB _ => Laws.EncodingFitsRow.ldB _
  | .stRegs _ => Laws.EncodingFitsRow.stRegs _
  | .ldRegs _ => Laws.EncodingFitsRow.ldRegs _

theorem row_mem_opcodeTable (i : Instr) : i.row ∈ opcodeTable := by
  cases i <;> simp only [Instr.row] <;> decide

theorem exists_row_of_mem {r : OpcodeRow} (h : r ∈ opcodeTable) : ∃ i : Instr, i.row = r := by
  obtain ⟨i, -, hi⟩ := List.mem_map.mp h
  exact ⟨i, hi⟩

/-- Two rows that agree on the bits both of them fix are one row. -/
theorem opcodeTable_rows_disjoint :
    ∀ r₁ ∈ opcodeTable, ∀ r₂ ∈ opcodeTable, r₁.pattern &&& r₂.mask = r₂.pattern &&& r₁.mask → r₁ = r₂ := by
  decide

theorem row_unique {op : Word} {r₁ r₂ : OpcodeRow} (hr₁ : r₁ ∈ opcodeTable) (hr₂ : r₂ ∈ opcodeTable)
    (h₁ : r₁.fits op = true) (h₂ : r₂.fits op = true) : r₁ = r₂ := by
  apply opcodeTable_rows_disjoint r₁ hr₁ r₂ hr₂
  rw [OpcodeRow.fits, beq_iff_eq] at h₁ h₂
  rw [← h₁, ← h₂, BitVec.and_assoc, BitVec.and_assoc, BitVec.and_comm r₁.mask]

/-- A field of which a row fixes every bit is the row's in each word that fits. -/
theorem slice_of_fits {op : Word} {r : OpcodeRow} {lo w : Nat} (h : r.fits op = true)
    (hm : slice r.mask lo w = BitVec.allOnes w) : slice op lo w = slice r.pattern lo w := by
  rw [OpcodeRow.fits, beq_iff_eq] at h
  rw [← h, slice, slice, BitVec.extractLsb'_and, ← slice, ← slice, hm, BitVec.and_allOnes]

/-- A row that fixes every bit fits its pattern alone. -/
theorem eq_pattern_of_fits {op : Word} {r : OpcodeRow} (h : r.fits op = true) (hm : r.mask = BitVec.allOnes 16) :
    op = r.pattern := by
  rwa [OpcodeRow.fits, hm, BitVec.and_allOnes, beq_iff_eq] at h

theorem slice_ofNat (n lo w : Nat) : slice (BitVec.ofNat 16 n) lo w = BitVec.ofNat w (n % 65536 / 2 ^ lo) := by
  simp [slice_eq_iff]

/-- A word that fits a row has the slices the decoder tests for, so it is no unassigned word. -/
theorem decode_of_fits {op : Word} {i : Instr} (h : i.row.fits op = true) : ∃ j, decode op = .instr j := by
  have hhigh : slice op 12 4 = slice i.row.pattern 12 4 :=
    slice_of_fits h (by cases i <;> simp [Instr.row, slice_ofNat])
  cases i with
  | cls | ret => rw [eq_pattern_of_fits h (by decide)]; exact ⟨_, rfl⟩
  | jp | call | seImm | sneImm | ldImm | addImm | ldIdx | jpV0 | rnd | drw =>
    simp [decode, hhigh, Instr.row, slice_ofNat]
  | seReg | sneReg | ldReg | or | and | xor | addReg | sub | shr | subn | shl =>
    have hlow : slice op 0 4 = slice _ 0 4 := slice_of_fits h (by simp [Instr.row, slice_ofNat])
    simp [decode, decode8, hhigh, hlow, Instr.row, slice_ofNat]
  | skp | sknp | ldVDt | ldK | ldDtV | ldStV | addIdx | ldF | ldB | stRegs | ldRegs =>
    have hlow : slice op 0 8 = slice _ 0 8 := slice_of_fits h (by simp [Instr.row, slice_ofNat])
    simp [decode, decodeE, decodeF, hhigh, hlow, Instr.row, slice_ofNat]

theorem fits_of_decode {op : Word} {i : Instr} (h : decode op = .instr i) : i.row.fits op = true := by
  rw [← encode_of_decode h]
  exact encode_fits_row i

/-- Settles O3: an instruction's word fits the instruction's row, a word that fits a row has the slices the decoder tests
for, and no two rows agree on the bits that both fix. -/
theorem decodeFollowsTheOpcodeTable : Obligations.DecodeFollowsTheOpcodeTable := by
  refine ⟨rfl, by decide, fun op => ⟨fun r₁ hr₁ r₂ hr₂ => row_unique hr₁ hr₂, ⟨?_, ?_⟩, ?_, ?_⟩⟩
  · rintro ⟨r, hr, hfits⟩
    obtain ⟨i, rfl⟩ := exists_row_of_mem hr
    exact decode_of_fits hfits
  · rintro ⟨i, hi⟩
    exact ⟨i.row, row_mem_opcodeTable i, fits_of_decode hi⟩
  · exact fun i hi => ⟨row_mem_opcodeTable i, fits_of_decode hi⟩
  · intro hnone
    refine (decode_cases op).resolve_right ?_
    rintro ⟨i, hi⟩
    exact Bool.false_ne_true ((hnone _ (row_mem_opcodeTable i)).symm.trans (fits_of_decode hi))

end Sys2Proof

namespace Sys2Proof.Machine

/-! ### What a running tick does with what it fetches (R70, R72, R80) -/

theorem tickTimers_pc (s : State) : (tickTimers s).pc = s.pc := by rw [tickTimers_eq]

theorem tickTimers_run (s : State) : (tickTimers s).run = s.run := by rw [tickTimers_eq]

theorem step_of_fetch {s : State} {op : Word} (hrun : s.run = .running) (hf : fetch s = .ok op) :
    step s = execDecoded (decode op) (tickTimers s) := by
  simp only [step_running hrun, fetchDecodeExecute, fetch_tickTimers, hf]

theorem step_of_fetch_error {s : State} {e : Event} (hrun : s.run = .running) (hf : fetch s = .error e) :
    step s = raise e (tickTimers s) := by
  simp only [step_running hrun, fetchDecodeExecute, fetch_tickTimers, hf]

theorem step_of_fetch_instr {s : State} {op : Word} {i : Instr} (hrun : s.run = .running) (hf : fetch s = .ok op)
    (hd : decode op = .instr i) : step s = exec i (tickTimers s) := by
  rw [step_of_fetch hrun hf, hd, execDecoded]

/-- Settles O7: the fetch reads the two bytes, and the tick executes what they decode to. -/
theorem stepRunsTheDecodedInstruction : Obligations.StepRunsTheDecodedInstruction :=
  fun _ _ _ _ hrun ha hb hd => step_of_fetch_instr hrun (fetch_of_addrs ha hb) hd

/-- Settles O8: the tick raises, and neither its decrement nor its event is read by the fetch. -/
theorem unassignedWordIsANoOpTick : Obligations.UnassignedWordIsANoOpTick := by
  intro s op hrun hf hd
  have hstep : step s = .next ((tickTimers s).setEvent (.unassigned op)) := by
    rw [step_of_fetch hrun hf, hd, execDecoded, raise]
  have hagain : fetch ((tickTimers s).setEvent (.unassigned op)) = .ok op := by
    rw [← hf, ← fetch_tickTimers s]
    exact fetch_congr rfl rfl rfl
  exact ⟨_, hstep, rfl, rfl, rfl, tickTimers_pc s, (tickTimers_run s).trans hrun, hagain⟩

/-! ### The fetch (R72) -/

theorem loadByte_of_addr_error {s : State} {v : Nat} {e : Event} (h : formAddr s.cfg v = .error e) :
    loadByte s v = .error e := by
  rw [loadByte, h]

theorem fetch_of_addr_error {s : State} {e : Event} (h : formAddr s.cfg s.pc.toNat = .error e) : fetch s = .error e := by
  rw [fetch, loadByte_of_addr_error h]

theorem fetch_of_next_addr_error {s : State} {a : Nat} {e : Event} (ha : formAddr s.cfg s.pc.toNat = .ok a)
    (h : formAddr s.cfg (s.pc.toNat + 1) = .error e) : fetch s = .error e := by
  rw [fetch, loadByte_of_addr ha, loadByte_of_addr_error h]

/-- A fetch that succeeds has formed both of its addresses. -/
theorem addrs_of_fetch {s : State} {op : Word} (h : fetch s = .ok op) :
    (∃ a, formAddr s.cfg s.pc.toNat = .ok a) ∧ ∃ b, formAddr s.cfg (s.pc.toNat + 1) = .ok b := by
  cases ha : formAddr s.cfg s.pc.toNat with
  | error e =>
    rw [fetch_of_addr_error ha] at h
    cases h
  | ok a =>
    cases hb : formAddr s.cfg (s.pc.toNat + 1) with
    | error e =>
      rw [fetch_of_next_addr_error ha hb] at h
      cases h
    | ok b => exact ⟨⟨a, rfl⟩, b, rfl⟩

theorem fetch_bigEndian {s : State} {a b : Nat} (ha : formAddr s.cfg s.pc.toNat = .ok a)
    (hb : formAddr s.cfg (s.pc.toNat + 1) = .ok b) :
    ∃ op, fetch s = .ok op ∧ op.toNat = (s.readByte a).toNat * 256 + (s.readByte b).toNat :=
  ⟨_, fetch_of_addrs ha hb, wordOfBytes_toNat _ _⟩

theorem formAddr_fault_of_le {cfg : Config} (h : cfg.addrMode = .fault) {v : Nat} (hv : v ≤ 0xFFF) :
    formAddr cfg v = .ok v := by
  rw [formAddr_fault h, if_pos hv]

theorem formAddr_fault_of_gt {cfg : Config} (h : cfg.addrMode = .fault) {v : Nat} (hv : v > 0xFFF) :
    formAddr cfg v = .error (.invalidAddress v) := by
  rw [formAddr_fault h, if_neg (Nat.not_le_of_gt hv)]

/-- Settles O9, by the value of ADDR_MODE and by where PC stands. -/
theorem fetchIsBigEndian : Obligations.FetchIsBigEndian := by
  intro s
  refine ⟨fun hw => ?_, fun hm hpc => ?_, fun hm hpc => ?_, fun hm hpc => ?_, fun e hrun hf => ?_⟩
  · exact fetch_bigEndian (formAddr_wrap hw _) (formAddr_wrap hw _)
  · exact fetch_bigEndian (formAddr_fault_of_le hm hpc.le) (formAddr_fault_of_le hm hpc)
  · rw [fetch_of_next_addr_error (formAddr_fault_of_le hm hpc.le) (formAddr_fault_of_gt hm (by omega)), hpc]
  · exact fetch_of_addr_error (formAddr_fault_of_gt hm hpc)
  · exact step_of_fetch_error hrun hf

/-! ### The placed word (20_memory.md R56; 70_reset_and_hazards.md R243) -/

theorem formAddr_of_le (cfg : Config) {v : Nat} (hv : v ≤ 0xFFF) : formAddr cfg v = .ok v := by
  cases hm : cfg.addrMode with
  | wrap => rw [formAddr_wrap hm, Nat.mod_eq_of_lt (by omega)]
  | fault => exact formAddr_fault_of_le hm hv

theorem fetchablePc_addrs (s : State) :
    (∃ a, formAddr s.cfg s.fetchablePc.toNat = .ok a) ∧ ∃ b, formAddr s.cfg (s.fetchablePc.toNat + 1) = .ok b := by
  unfold State.fetchablePc
  split
  · exact addrs_of_fetch ‹_›
  · exact ⟨⟨_, formAddr_of_le s.cfg (by decide)⟩, _, formAddr_of_le s.cfg (by decide)⟩

theorem State.placeByte_of_addr {s : State} {v a : Nat} (h : formAddr s.cfg v = .ok a) (b : Byte) :
    s.placeByte v b = s.writeByte a b := by
  rw [State.placeByte, h]

theorem State.writeByte_pc (s : State) (a : Nat) (b : Byte) : (s.writeByte a b).pc = s.pc := by rw [State.writeByte_eq]

theorem State.writeByte_run (s : State) (a : Nat) (b : Byte) : (s.writeByte a b).run = s.run := by rw [State.writeByte_eq]

/-- A word written at the two addresses of the fetch, high byte first, is what is fetched. -/
theorem fetch_writeByte_writeByte {s : State} {a b : Nat} (ha : formAddr s.cfg s.pc.toNat = .ok a)
    (hb : formAddr s.cfg (s.pc.toNat + 1) = .ok b) (op : Word) :
    fetch ((s.writeByte a (highByte op)).writeByte b (lowByte op)) = .ok op := by
  have hab : a ≠ b := by
    rintro rfl
    exact absurd (formAddr_inj (j := 0) ha hb (by decide) (by decide)) (by decide)
  have hlt := formAddr_lt ha
  have hlt' := formAddr_lt hb
  rw [fetch_of_addrs (a := a) (b := b) (by simpa [State.writeByte_pc] using ha) (by simpa [State.writeByte_pc] using hb),
    State.readByte_writeByte_of_ne _ hlt' _ hab, State.readByte_writeByte_same _ hlt, State.readByte_writeByte_same _ hlt',
    wordOfBytes_split]

theorem tableWord_word (w : Nat) : tableWord 16 w = BitVec.ofNat 16 w := by
  apply BitVec.eq_of_toNat_eq
  simp [tableWord]

/-- The state in which `withFetchWord` places its word: a TICK acts, and both bytes of the fetch are in range. -/
def State.readyToFetch (s : State) : State := { s with pc := s.fetchablePc, run := .running }

theorem withFetchWord_eq_placeByte (s : State) (w : Nat) :
    s.withFetchWord 16 w =
      (s.readyToFetch.placeByte s.readyToFetch.pc.toNat (highByte (BitVec.ofNat 16 w))).placeByte
        (s.readyToFetch.pc.toNat + 1) (lowByte (BitVec.ofNat 16 w)) := by
  rw [← tableWord_word]
  rfl

theorem readyToFetch_addrs (s : State) :
    (∃ a, formAddr s.readyToFetch.cfg s.readyToFetch.pc.toNat = .ok a) ∧
      ∃ b, formAddr s.readyToFetch.cfg (s.readyToFetch.pc.toNat + 1) = .ok b :=
  fetchablePc_addrs s

/-- `withFetchWord` writes the word's two bytes at the addresses of the fetch. -/
theorem withFetchWord_eq_writeByte (s : State) (w : Nat) :
    ∃ a b, formAddr s.readyToFetch.cfg s.readyToFetch.pc.toNat = .ok a ∧
      formAddr s.readyToFetch.cfg (s.readyToFetch.pc.toNat + 1) = .ok b ∧
      s.withFetchWord 16 w =
        (s.readyToFetch.writeByte a (highByte (BitVec.ofNat 16 w))).writeByte b (lowByte (BitVec.ofNat 16 w)) := by
  obtain ⟨⟨a, ha⟩, b, hb⟩ := readyToFetch_addrs s
  refine ⟨a, b, ha, hb, ?_⟩
  rw [withFetchWord_eq_placeByte, State.placeByte_of_addr ha, State.placeByte_of_addr (by rwa [State.writeByte_cfg])]

theorem withFetchWord_run (s : State) (w : Nat) : (s.withFetchWord 16 w).run = .running := by
  obtain ⟨a, b, -, -, h⟩ := withFetchWord_eq_writeByte s w
  rw [h, State.writeByte_run, State.writeByte_run, State.readyToFetch]

theorem fetch_withFetchWord (s : State) (w : Nat) : fetch (s.withFetchWord 16 w) = .ok (BitVec.ofNat 16 w) := by
  obtain ⟨a, b, ha, hb, h⟩ := withFetchWord_eq_writeByte s w
  rw [h, fetch_writeByte_writeByte ha hb]

theorem decode_of_decodeTableWord {w : Nat} {i : Instr} (h : decodeTableWord 16 w = some i) :
    decode (BitVec.ofNat 16 w) = .instr i := by
  rw [decodeTableWord, wordOfBytes_split, tableWord_word] at h
  cases hd : decode (BitVec.ofNat 16 w) with
  | instr j =>
    rw [hd] at h
    cases h
    rfl
  | unassigned op =>
    rw [hd] at h
    cases h

/-- Settles O15: the placed word is fetched, and the tick executes what it decodes to. -/
theorem placedWordIsTheNextInstruction : Obligations.PlacedWordIsTheNextInstruction := by
  intro s w i h
  have hrun := withFetchWord_run s w
  have hf := fetch_withFetchWord s w
  exact ⟨hrun, hf, step_of_fetch_instr hrun hf (decode_of_decodeTableWord h)⟩

end Sys2Proof.Machine
end

section
/-! PROOFS. The statements of 40_control_flow.md: jumps, the call stack and the skips. -/

namespace Sys2Proof

/-! ### The words of control flow (30_encoding.md R79, R81) -/

theorem decode_eq_ret_iff (op : Word) : decode op = .instr .ret ↔ op = 0x00EE := by
  constructor
  · exact fun h => (encode_of_decode h).symm
  · rintro rfl
    rfl

section
variable {op : Word}

theorem decode_of_highNibble_1 (h : slice op 12 4 = 0x1) : decode op = .instr (.jp (opNNN op)) := by
  simp [decode, h]

theorem decode_of_highNibble_2 (h : slice op 12 4 = 0x2) : decode op = .instr (.call (opNNN op)) := by
  simp [decode, h]

theorem decode_of_highNibble_3 (h : slice op 12 4 = 0x3) : decode op = .instr (.seImm (opX op) (opKK op)) := by
  simp [decode, h]

theorem decode_of_highNibble_4 (h : slice op 12 4 = 0x4) : decode op = .instr (.sneImm (opX op) (opKK op)) := by
  simp [decode, h]

theorem decode_of_highNibble_5 (h : slice op 12 4 = 0x5) :
    decode op = if slice op 0 4 = 0 then .instr (.seReg (opX op) (opY op)) else .unassigned op := by
  simp [decode, h]

theorem decode_of_highNibble_9 (h : slice op 12 4 = 0x9) :
    decode op = if slice op 0 4 = 0 then .instr (.sneReg (opX op) (opY op)) else .unassigned op := by
  simp [decode, h]

theorem decode_of_highNibble_B (h : slice op 12 4 = 0xB) : decode op = .instr (.jpV0 (opNNN op)) := by
  simp [decode, h]

end

end Sys2Proof

namespace Sys2Proof.Machine

/-! ### Completing with PC <- P(v) -/

/-- An instruction whose writes made `t` of `s` and that completes with PC <- P(v). -/
theorem UnchangedExcept.complete_jump {C : Part → Prop} {s t : State} (h : UnchangedExcept C s t) (hpc : C .pc)
    (he : C .event) (v : Nat) :
    ∃ u, complete (t.jump v) = .next u ∧ UnchangedExcept C s u ∧ u.pc = normPc t.cfg v ∧ u.sp = t.sp ∧
      ∀ j, u.stackEntry j = t.stackEntry j :=
  ⟨_, rfl, (h.jump hpc v).setEvent he .evNone, rfl, rfl, fun _ => rfl⟩

/-- An instruction that only sets PC. -/
theorem complete_jump_sets_pc_only (s : State) (v : Nat) :
    ∃ t, complete (s.jump v) = .next t ∧ UnchangedExcept (fun p => p = .pc ∨ p = .event) s t ∧
      t.pc = normPc s.cfg v := by
  obtain ⟨t, ht, hframe, hpc, -, -⟩ :=
    (UnchangedExcept.refl (fun p => p = .pc ∨ p = .event) s).complete_jump (.inl rfl) (.inr rfl) v
  exact ⟨t, ht, hframe, hpc⟩

/-- A skip on the condition `P`, which the instruction tests as the Bool `c` (R108). -/
theorem complete_skipIf_sets_pc_only {c : Bool} {P : Prop} [Decidable P] (hc : c = decide P) (s : State) :
    ∃ t, complete (s.skipIf c) = .next t ∧ UnchangedExcept (fun p => p = .pc ∨ p = .event) s t ∧
      t.pc = normPc s.cfg (s.pc.toNat + if P then 4 else 2) := by
  subst hc
  simpa only [State.skipIf_eq, decide_eq_true_eq] using complete_jump_sets_pc_only s (s.pc.toNat + if P then 4 else 2)

/-! ### CALL and RET, by the stack pointer (40_control_flow.md R100, R102) -/

section
variable {s : State}

theorem State.push_sp_toNat (h : s.sp.toNat < 16) (w : Word) : (s.push w).sp.toNat = s.sp.toNat + 1 := by
  rw [State.push_sp, BitVec.toNat_ofNat]
  omega

theorem State.dropTop_sp_toNat (s : State) : s.dropTop.sp.toNat = s.sp.toNat - 1 := by
  rw [State.dropTop_sp, BitVec.toNat_ofNat]
  omega

theorem State.spValid_iff (s : State) : s.spValid = true ↔ s.sp.toNat ≤ 16 := decide_eq_true_iff

theorem exec_ret_of_empty (h : s.sp.toNat = 0) : exec .ret s = raise (.stackUnderflow s.pc) s := by
  have hv : s.spValid = true := s.spValid_iff.mpr (by omega)
  rw [exec, execRet, if_pos hv, if_pos h]

theorem exec_ret_of_occupied (hpos : 0 < s.sp.toNat) (hle : s.sp.toNat ≤ 16) :
    ∃ t, exec .ret s = .next t ∧ t.sp.toNat = s.sp.toNat - 1 ∧
      t.pc = normPc s.cfg ((s.stackEntry (s.sp.toNat - 1)).toNat + 2) ∧
      UnchangedExcept (fun p => p = .sp ∨ p = .pc ∨ p = .event) s t := by
  have hv : s.spValid = true := s.spValid_iff.mpr hle
  have hdrop := (UnchangedExcept.refl (fun p => p = .sp ∨ p = .pc ∨ p = .event) s).dropTop (.inl rfl)
  obtain ⟨t, ht, hframe, hpc, hsp, -⟩ :=
    hdrop.complete_jump (.inr (.inl rfl)) (.inr (.inr rfl)) (s.topEntry.toNat + 2)
  refine ⟨t, ?_, ?_, hpc, hframe⟩
  · rw [exec, execRet, if_pos hv, if_neg (by omega), ht]
  · rw [hsp, State.dropTop_sp_toNat]

theorem exec_call_of_room (hlt : s.sp.toNat < 16) (nnn : Word) :
    ∃ t, exec (.call nnn) s = .next t ∧ t.stackEntry s.sp.toNat = s.pc ∧ t.sp.toNat = s.sp.toNat + 1 ∧
      t.pc = normPc s.cfg nnn.toNat ∧
      UnchangedExcept (fun p => p = .stack s.sp.toNat ∨ p = .sp ∨ p = .pc ∨ p = .event) s t := by
  have hv : s.spValid = true := s.spValid_iff.mpr hlt.le
  have hpush := (UnchangedExcept.refl (fun p => p = .stack s.sp.toNat ∨ p = .sp ∨ p = .pc ∨ p = .event) s).push
    (by simp) (by simp) hlt s.pc
  obtain ⟨t, ht, hframe, hpc, hsp, hstack⟩ := hpush.complete_jump (by simp) (by simp) nnn.toNat
  refine ⟨t, ?_, ?_, ?_, hpc, hframe⟩
  · rw [exec, execCall, if_pos hv, if_neg (by omega), ht]
  · rw [hstack, State.stackEntry_push hlt, if_pos rfl]
  · rw [hsp, State.push_sp_toNat hlt]

theorem exec_call_of_full (h : s.sp.toNat = 16) (nnn : Word) : exec (.call nnn) s = callWithFullStack nnn s := by
  have hv : s.spValid = true := s.spValid_iff.mpr h.le
  rw [exec, execCall, if_pos hv, if_pos h]

theorem callWithFullStack_reject (h : s.cfg.callOverflow = .reject) (nnn : Word) :
    callWithFullStack nnn s = raise (.stackOverflow s.pc) s := by
  simp [callWithFullStack, h]

theorem callWithFullStack_jumpNoPush (h : s.cfg.callOverflow = .jumpNoPush) (nnn : Word) :
    ∃ t, callWithFullStack nnn s = .next t ∧ t.event = .stackOverflow s.pc ∧ t.pc = normPc s.cfg nnn.toNat ∧
      UnchangedExcept (fun p => p = .pc ∨ p = .event) s t := by
  have hjump := (UnchangedExcept.refl (fun p => p = .pc ∨ p = .event) s).jump (.inl rfl) nnn.toNat
  exact ⟨_, by rw [callWithFullStack, h], rfl, rfl, hjump.setEvent (.inr rfl) _⟩

/-- Under either CALL_OVERFLOW, a CALL with a full stack writes PC and the event at most. -/
theorem callWithFullStack_frame (nnn : Word) (s : State) :
    ∃ t, callWithFullStack nnn s = .next t ∧ UnchangedExcept (fun p => p = .pc ∨ p = .event) s t := by
  cases hm : s.cfg.callOverflow with
  | reject => exact ⟨_, callWithFullStack_reject hm nnn, (UnchangedExcept.refl _ s).setEvent (.inr rfl) _⟩
  | jumpNoPush =>
    obtain ⟨t, ht, -, -, hframe⟩ := callWithFullStack_jumpNoPush hm nnn
    exact ⟨t, ht, hframe⟩

/-- RET after CALL, from any state with the parameters, SP and occupied entries that the CALL left (R110). -/
theorem exec_ret_after_call {nnn : Word} {t u : State} (hlt : s.sp.toNat < 16) (hcall : exec (.call nnn) s = .next t)
    (hcfg : u.cfg = t.cfg) (hsp : u.sp = t.sp) (hstack : ∀ j < t.sp.toNat, u.stackEntry j = t.stackEntry j) :
    ∃ w, exec .ret u = .next w ∧ w.pc = normPc s.cfg (s.pc.toNat + 2) ∧ w.sp = s.sp ∧
      ∀ j < s.sp.toNat, w.stackEntry j = s.stackEntry j := by
  obtain ⟨t', ht', htop, htsp, -, htframe⟩ := exec_call_of_room hlt nnn
  obtain rfl : t' = t := by
    rw [hcall] at ht'
    cases ht'
    rfl
  have htcfg : t'.cfg = s.cfg := htframe .cfg (by simp)
  have husp : u.sp.toNat = s.sp.toNat + 1 := by rw [hsp, htsp]
  obtain ⟨w, hw, hwsp, hwpc, hwframe⟩ := exec_ret_of_occupied (s := u) (by omega) (by omega)
  refine ⟨w, hw, ?_, BitVec.eq_of_toNat_eq (by omega), fun j hj => ?_⟩
  · rw [hwpc, husp, Nat.add_sub_cancel, hstack _ (by omega), htop, hcfg, htcfg]
  · calc w.stackEntry j
      _ = u.stackEntry j := hwframe (.stack j) (by simp)
      _ = t'.stackEntry j := hstack j (by omega)
      _ = s.stackEntry j := htframe (.stack j) (by simp [hj.ne])

end

/-- Settles O23: RET undoes the push of CALL, and a CALL with a full stack writes PC and the event at most. -/
theorem callThenReturnComesBack : Obligations.CallThenReturnComesBack := by
  refine ⟨fun nnn s t u => exec_ret_after_call, fun nnn s hfull => ?_⟩
  obtain ⟨t, ht, hframe⟩ := callWithFullStack_frame nnn s
  exact ⟨t, (exec_call_of_full hfull nnn).trans ht, hframe .sp (by simp), fun j => hframe (.stack j) (by simp)⟩

/-- Settles O20: JP only sets PC. -/
theorem jumpSetsPc : Obligations.JumpSetsPc := by
  refine ⟨fun op => decode_of_highNibble_1, fun nnn s => ?_⟩
  obtain ⟨t, ht, hframe, hpc⟩ := complete_jump_sets_pc_only s nnn.toNat
  exact ⟨t, ht, hpc, hframe⟩

/-- Settles O21, by whether the stack is empty. -/
theorem returnPopsTheStack : Obligations.ReturnPopsTheStack :=
  ⟨decode_eq_ret_iff, fun _ => ⟨exec_ret_of_empty, exec_ret_of_occupied⟩⟩

/-- Settles O22, by whether the stack has room, and if not by CALL_OVERFLOW. -/
theorem callPushesItsOwnAddress : Obligations.CallPushesItsOwnAddress := by
  refine ⟨fun op => decode_of_highNibble_2, fun nnn s =>
    ⟨fun hlt => exec_call_of_room hlt nnn, fun hfull hm => ?_, fun hfull hm => ?_⟩⟩
  · rw [exec_call_of_full hfull, callWithFullStack_reject hm, raise, State.setEvent]
  · rw [exec_call_of_full hfull]
    exact callWithFullStack_jumpNoPush hm nnn

/-- Settles O25: each skip completes with PC moved by its condition, read on the bytes as numbers. -/
theorem skipsCompareRegisters : Obligations.SkipsCompareRegisters := by
  refine ⟨fun op => decode_of_highNibble_3, fun op => decode_of_highNibble_4, fun op hh hl => ?_, fun op hh hl => ?_,
    fun op hh hl => ?_, fun x y kk s => ⟨?_, ?_, ?_, ?_⟩⟩
  · rw [decode_of_highNibble_5 hh, if_pos hl]
  · rw [decode_of_highNibble_9 hh, if_pos hl]
  · obtain hh | hh := hh
    · rw [decode_of_highNibble_5 hh, if_neg hl]
    · rw [decode_of_highNibble_9 hh, if_neg hl]
  · exact complete_skipIf_sets_pc_only (byte_beq_eq_decide _ _) s
  · exact complete_skipIf_sets_pc_only (byte_bne_eq_decide _ _) s
  · exact complete_skipIf_sets_pc_only (byte_beq_eq_decide _ _) s
  · exact complete_skipIf_sets_pc_only (byte_bne_eq_decide _ _) s

/-- Settles O26: JP V0 only sets PC. -/
theorem computedJumpAddsV0 : Obligations.ComputedJumpAddsV0 := by
  refine ⟨fun op => decode_of_highNibble_B, fun nnn s => ?_⟩
  obtain ⟨t, ht, hframe, hpc⟩ := complete_jump_sets_pc_only s ((s.readV 0).toNat + nnn.toNat)
  exact ⟨t, ht, hpc, hframe⟩

end Sys2Proof.Machine
end

section
/-! PROOFS. The statements of 41_load_alu.md: register loads, arithmetic and the random byte. -/

namespace Sys2Proof

/-! ### A word is decoded by its format (30_encoding.md R74, R79) -/

section
variable {op : Word} {i : Instr} {k : Nat} (hk : slice op 12 4 = BitVec.ofNat 4 k) (hw : i.wellFormed = true)
include hk hw

theorem decode_of_formXKK (hi : encode i = formXKK k (opX op) (opKK op)) : decode op = .instr i := by
  have h := decodeOfEncodeIsTheInstruction i hw
  rwa [hi, formXKK_of_slices hk] at h

theorem decode_of_formXYF {n : Nat} (hn : slice op 0 4 = BitVec.ofNat 4 n)
    (hi : encode i = formXYN k (opX op) (opY op) n) : decode op = .instr i := by
  have h := decodeOfEncodeIsTheInstruction i hw
  rwa [hi, formXYF_of_slices hk hn] at h

end

end Sys2Proof

namespace Sys2Proof.Machine

/-! ### Results and flags as numbers (00_scope.md R10) -/

theorem flagByte_decide_toNat (P : Prop) [Decidable P] : (flagByte (decide P)).toNat = if P then 1 else 0 := by
  by_cases h : P <;> simp [flagByte, h]

section
variable (a b : Byte)

theorem sumByte_toNat : (sumByte a b).toNat = (a.toNat + b.toNat) % 256 := by
  rw [sumByte, BitVec.toNat_ofNat]
  omega

theorem differenceByte_toNat : ((differenceByte a b).toNat : Int) = ((a.toNat : Int) - b.toNat) % 256 := by
  rw [differenceByte, BitVec.toNat_ofInt]
  omega

theorem shiftRightByte_toNat : (shiftRightByte a).toNat = a.toNat / 2 := by
  rw [shiftRightByte, BitVec.toNat_ofNat]
  omega

theorem shiftLeftByte_toNat : (shiftLeftByte a).toNat = a.toNat * 2 % 256 := by
  rw [shiftLeftByte, BitVec.toNat_ofNat]
  omega

theorem carryFlag_toNat : (flagByte (carryFlag a b)).toNat = if a.toNat + b.toNat > 255 then 1 else 0 :=
  flagByte_decide_toNat _

theorem greaterFlag_toNat : (flagByte (greaterFlag a b)).toNat = if a.toNat > b.toNat then 1 else 0 :=
  flagByte_decide_toNat _

theorem lowBitFlag_toNat : (flagByte (lowBitFlag a)).toNat = a.toNat % 2 := by
  rw [lowBitFlag, flagByte_decide_toNat]
  split <;> omega

theorem highBitFlag_toNat : (flagByte (highBitFlag a)).toNat = a.toNat / 128 := by
  rw [highBitFlag, flagByte_decide_toNat]
  split <;> omega

end

theorem shiftOperand_toNat (s : State) (x y : RegIdx) :
    (shiftOperand s x y).toNat = if s.cfg.shiftSrc = .vx then (s.readV x).toNat else (s.readV y).toNat := by
  cases h : s.cfg.shiftSrc <;> simp [shiftOperand, h]

/-! ### An instruction that writes one register -/

/-- An instruction whose writes made `t` of `s` and that ends by writing V[x]. -/
theorem UnchangedExcept.finishResult {C : Part → Prop} {s t : State} (h : UnchangedExcept C s t) {x : RegIdx}
    (hx : C (.v x)) (hpc : C .pc) (he : C .event) (b : Byte) :
    ∃ u, finishResult t x b = .next u ∧ u.readV x = b ∧ u.draws = t.draws ∧ u.pc = normPc t.cfg (t.pc.toNat + 2) ∧
      UnchangedExcept C s u :=
  ⟨_, rfl, (t.readV_writeV x x b).trans (if_pos rfl), rfl, rfl, ((h.writeV hx b).jump hpc _).setEvent he .evNone⟩

theorem finishResult_sets_register_only (s : State) (x : RegIdx) (b : Byte) :
    ∃ t, finishResult s x b = .next t ∧ t.readV x = b ∧ t.pc = normPc s.cfg (s.pc.toNat + 2) ∧
      UnchangedExcept (fun p => p = .v x ∨ p = .pc ∨ p = .event) s t := by
  obtain ⟨t, ht, hv, -, hpc, hframe⟩ :=
    (UnchangedExcept.refl (fun p => p = .v x ∨ p = .pc ∨ p = .event) s).finishResult (.inl rfl) (by simp) (by simp) b
  exact ⟨t, ht, hv, hpc, hframe⟩

/-- The form in which R125, R126 and R127 give the result: bit by bit. -/
theorem finishResult_sets_bits_only (s : State) (x : RegIdx) {b : Byte} {f : Nat → Bool} (hb : ∀ k, b.getLsbD k = f k) :
    ∃ t, finishResult s x b = .next t ∧ t.pc = normPc s.cfg (s.pc.toNat + 2) ∧
      (∀ k < 8, (t.readV x).getLsbD k = f k) ∧
      UnchangedExcept (fun p => p = .v x ∨ p = .pc ∨ p = .event) s t := by
  obtain ⟨t, ht, rfl, hpc, hframe⟩ := finishResult_sets_register_only s x b
  exact ⟨t, ht, hpc, fun k _ => hb k, hframe⟩

theorem exec_addImm (x : RegIdx) (kk : Byte) (s : State) :
    ∃ t, exec (.addImm x kk) s = .next t ∧ (t.readV x).toNat = ((s.readV x).toNat + kk.toNat) % 256 ∧
      t.pc = normPc s.cfg (s.pc.toNat + 2) ∧ UnchangedExcept (fun p => p = .v x ∨ p = .pc ∨ p = .event) s t := by
  obtain ⟨t, ht, hv, hpc, hframe⟩ := finishResult_sets_register_only s x (sumByte (s.readV x) kk)
  exact ⟨t, ht, hv ▸ sumByte_toNat _ _, hpc, hframe⟩

/-! ### An instruction that writes a result and then its flag (R121) -/

theorem finishResultAndFlag_sets_result_and_vf_only (s : State) (x : RegIdx) (b : Byte) (c : Bool) :
    ∃ t, finishResultAndFlag s x b c = .next t ∧ (x ≠ vf → t.readV x = b) ∧ t.readV vf = flagByte c ∧
      t.pc = normPc s.cfg (s.pc.toNat + 2) ∧
      UnchangedExcept (fun p => p = .v x ∨ p = .v vf ∨ p = .pc ∨ p = .event) s t := by
  have hframe : UnchangedExcept (fun p => p = .v x ∨ p = .v vf ∨ p = .pc ∨ p = .event) s (s.writeResultAndFlag x b c) :=
    ((UnchangedExcept.refl _ s).writeV (by simp) b).writeV (by simp) _
  have hv (r : RegIdx) :
      (s.writeResultAndFlag x b c).readV r = if r = vf then flagByte c else if r = x then b else s.readV r := by
    rw [State.writeResultAndFlag, State.readV_writeV, State.readV_writeV]
  refine ⟨_, rfl, fun hx => ?_, ?_, rfl, (hframe.jump (by simp) _).setEvent (by simp) .evNone⟩
  · exact (hv x).trans (by rw [if_neg hx, if_pos rfl])
  · exact (hv vf).trans (if_pos rfl)

section
variable {s : State} {x : RegIdx} {b : Byte} {c : Bool}

/-- The result and the flag are given as numbers. -/
theorem finishResultAndFlag_toNat {r f : Nat} (hr : b.toNat = r) (hf : (flagByte c).toNat = f) :
    ∃ t, finishResultAndFlag s x b c = .next t ∧ (x ≠ vf → (t.readV x).toNat = r) ∧ (t.readV vf).toNat = f ∧
      t.pc = normPc s.cfg (s.pc.toNat + 2) ∧
      UnchangedExcept (fun p => p = .v x ∨ p = .v vf ∨ p = .pc ∨ p = .event) s t := by
  obtain ⟨t, ht, hv, hvf, hpc, hframe⟩ := finishResultAndFlag_sets_result_and_vf_only s x b c
  exact ⟨t, ht, fun hx => by rw [hv hx, hr], by rw [hvf, hf], hpc, hframe⟩

/-- The result and the flag are given as bytes, for x other than F. -/
theorem finishResultAndFlag_bytes {r f : Byte} (hx : x ≠ vf) (hr : b = r) (hf : flagByte c = f) :
    ∃ t, finishResultAndFlag s x b c = .next t ∧ t.readV x = r ∧ t.readV vf = f := by
  obtain ⟨t, ht, hv, hvf, -, -⟩ := finishResultAndFlag_sets_result_and_vf_only s x b c
  exact ⟨t, ht, (hv hx).trans hr, hvf.trans hf⟩

end

/-- 8xy5 and 8xy7, for their operands in either order (R129, R131). -/
theorem finishResultAndFlag_difference (s : State) (x : RegIdx) (a b : Byte) :
    ∃ t, finishResultAndFlag s x (differenceByte a b) (greaterFlag a b) = .next t ∧
      (x ≠ vf → ((t.readV x).toNat : Int) = ((a.toNat : Int) - b.toNat) % 256) ∧
      (t.readV vf).toNat = (if a.toNat > b.toNat then 1 else 0) ∧ t.pc = normPc s.cfg (s.pc.toNat + 2) ∧
      UnchangedExcept (fun p => p = .v x ∨ p = .v vf ∨ p = .pc ∨ p = .event) s t := by
  obtain ⟨t, ht, hv, hvf, hpc, hframe⟩ := finishResultAndFlag_toNat (s := s) (x := x) rfl (greaterFlag_toNat a b)
  exact ⟨t, ht, fun hx => by rw [hv hx, differenceByte_toNat], hvf, hpc, hframe⟩

/-! ### The statements -/

/-- Settles O27: each of the three writes one register. -/
theorem loadAddAndCopyWriteOneRegister : Obligations.LoadAddAndCopyWriteOneRegister :=
  ⟨fun _ hk => decode_of_formXKK hk rfl rfl, fun _ hk => decode_of_formXKK hk rfl rfl,
    fun _ hk hn => decode_of_formXYF hk rfl hn rfl, fun x y kk s =>
      ⟨finishResult_sets_register_only s x kk, exec_addImm x kk s, finishResult_sets_register_only s x (s.readV y)⟩⟩

/-- Settles O28: each of the three writes one register, with the bits that the operation on bytes has. -/
theorem logicActsBitwiseAndLeavesVf : Obligations.LogicActsBitwiseAndLeavesVf :=
  ⟨fun _ hk hn => decode_of_formXYF hk rfl hn rfl, fun _ hk hn => decode_of_formXYF hk rfl hn rfl,
    fun _ hk hn => decode_of_formXYF hk rfl hn rfl, fun x _ s =>
      ⟨finishResult_sets_bits_only s x fun _ => BitVec.getLsbD_or,
        finishResult_sets_bits_only s x fun _ => BitVec.getLsbD_and,
        finishResult_sets_bits_only s x fun _ => BitVec.getLsbD_xor⟩⟩

/-- Settles O29, by the values of the sum and of the carry. -/
theorem addReportsTheCarry : Obligations.AddReportsTheCarry :=
  ⟨fun _ hk hn => decode_of_formXYF hk rfl hn rfl, fun _ _ _ =>
    finishResultAndFlag_toNat (sumByte_toNat _ _) (carryFlag_toNat _ _)⟩

/-- Settles O30: the two differ in the order of the operands only. -/
theorem subtractReportsStrictlyGreater : Obligations.SubtractReportsStrictlyGreater :=
  ⟨fun _ hk hn => decode_of_formXYF hk rfl hn rfl, fun _ hk hn => decode_of_formXYF hk rfl hn rfl, fun x y s =>
    ⟨finishResultAndFlag_difference s x (s.readV x) (s.readV y),
      finishResultAndFlag_difference s x (s.readV y) (s.readV x)⟩⟩

/-- Settles O31, by the value of the register that SHIFT_SRC names. -/
theorem shiftsReportTheBitShiftedOut : Obligations.ShiftsReportTheBitShiftedOut := by
  refine ⟨fun _ hk hn => decode_of_formXYF hk rfl hn rfl, fun _ hk hn => decode_of_formXYF hk rfl hn rfl,
    fun x y s v hv => ?_⟩
  obtain rfl : v = (shiftOperand s x y).toNat := hv.trans (shiftOperand_toNat s x y).symm
  exact ⟨finishResultAndFlag_toNat (shiftRightByte_toNat _) (lowBitFlag_toNat _),
    finishResultAndFlag_toNat (shiftLeftByte_toNat _) (highBitFlag_toNat _)⟩

/-- Settles O32: the draw is counted, then the masked byte is written, whatever it is. -/
theorem randomByteIsMasked : Obligations.RandomByteIsMasked := by
  refine ⟨fun _ hk => decode_of_formXKK hk rfl rfl, fun x kk s => ?_⟩
  have hdraw := (UnchangedExcept.refl (fun p => p = .v x ∨ p = .draws ∨ p = .pc ∨ p = .event) s).countDraw (by simp)
  obtain ⟨t, ht, hv, hdraws, hpc, hframe⟩ :=
    hdraw.finishResult (.inl rfl) (by simp) (by simp) (Config.rndByte s.draws &&& kk)
  exact ⟨t, ht, fun k _ => by rw [hv, BitVec.getLsbD_and], hdraws, hpc, hframe⟩

/-- Settles O33: 7xkk adds to what 6xkk wrote, and the boundary pairs are evaluated. -/
theorem arithmeticWrapsAtTheBoundary : Obligations.ArithmeticWrapsAtTheBoundary := by
  refine ⟨fun x a b s t hld => ?_, fun x y s _ hx _ => ⟨fun ha hb => ?_, fun ha hb => ?_, fun ha hb => ?_,
    fun ha hb => ?_⟩⟩
  · obtain ⟨t', ht', hv, -, -⟩ := finishResult_sets_register_only s x a
    obtain rfl : t' = t := by
      cases ht'.symm.trans hld
      rfl
    obtain ⟨u, hu, hsum, -, -⟩ := exec_addImm x b t'
    exact ⟨u, hu, by rw [hsum, hv]⟩
  all_goals exact finishResultAndFlag_bytes hx (by rw [ha, hb]; decide) (by rw [ha, hb]; decide)

end Sys2Proof.Machine
end

section
/-! PROOFS. The statements of 42_index_memory.md: the index register, and transfers between registers and memory. -/

namespace Sys2Proof

/-! ### The words of the index register and of transfers (30_encoding.md R74, R79) -/

theorem decode_of_highNibble_A {op : Word} (h : slice op 12 4 = 0xA) : decode op = .instr (.ldIdx (opNNN op)) := by
  simp [decode, h]

/-- A word with a function byte, such as Fx33. -/
theorem decode_of_formXFF {op : Word} {i : Instr} {k : Nat} {b : Byte} (hk : slice op 12 4 = BitVec.ofNat 4 k)
    (hb : slice op 0 8 = b) (hw : i.wellFormed = true) (hi : encode i = formXKK k (opX op) b) : decode op = .instr i := by
  have h := decodeOfEncodeIsTheInstruction i hw
  rwa [hi, formXFF_of_slices hk hb] at h

end Sys2Proof

namespace Sys2Proof.Machine

/-! ### The index register (R150, R151, R152) -/

theorem glyphAddress_toNat (b : Byte) : (glyphAddress b).toNat = b.toNat * 5 := by
  rw [glyphAddress, BitVec.toNat_ofNat]
  omega

theorem indexSum_wrap_toNat {cfg : Config} (h : cfg.addrMode = .wrap) (n : Nat) : (indexSum cfg n).toNat = n % 4096 := by
  simp only [indexSum, h, BitVec.toNat_ofNat]
  omega

theorem indexSum_fault_toNat {cfg : Config} (h : cfg.addrMode = .fault) (n : Nat) :
    (indexSum cfg n).toNat = n % 65536 := by
  simp only [indexSum, h, BitVec.toNat_ofNat]
  omega

theorem indexOverflowFlag_toNat (n : Nat) : (flagByte (indexOverflowFlag n)).toNat = if n > 0xFFF then 1 else 0 :=
  flagByte_decide_toNat _

/-- An instruction that only sets I. -/
theorem complete_setI_sets_index_only (s : State) (w : Word) :
    ∃ t, complete (s.setI w).advance = .next t ∧ t.i = w ∧ t.pc = normPc s.cfg (s.pc.toNat + 2) ∧
      UnchangedExcept (fun p => p = .i ∨ p = .pc ∨ p = .event) s t :=
  ⟨_, rfl, rfl, rfl, (((UnchangedExcept.refl _ s).setI (.inl rfl) w).jump (by simp) _).setEvent (by simp) .evNone⟩

/-- An instruction that sets I and then writes V[x]. -/
theorem finishResult_sets_index_and_register_only (s : State) (w : Word) (x : RegIdx) (b : Byte) :
    ∃ t, finishResult (s.setI w) x b = .next t ∧ t.i = w ∧ t.readV x = b ∧ t.pc = normPc s.cfg (s.pc.toNat + 2) ∧
      UnchangedExcept (fun p => p = .i ∨ p = .v x ∨ p = .pc ∨ p = .event) s t :=
  ⟨_, rfl, rfl, ((s.setI w).readV_writeV x x b).trans (if_pos rfl), rfl,
    ((((UnchangedExcept.refl _ s).setI (by simp) w).writeV (by simp) b).jump (by simp) _).setEvent (by simp) .evNone⟩

/-! ### The range of a transfer, and the event outside it (20_memory.md R54; 60_exceptions.md R214) -/

theorem transferInRange_fault_iff {cfg : Config} (h : cfg.addrMode = .fault) (v n : Nat) :
    TransferInRange cfg v n ↔ n = 0 ∨ v + n ≤ 0x1000 := by
  rw [TransferInRange, h]

theorem transferInRange_of_le (cfg : Config) {v n : Nat} (h : v + n ≤ 0x1000) : TransferInRange cfg v n := by
  cases hm : cfg.addrMode with
  | wrap => rw [TransferInRange, hm]; trivial
  | fault => exact (transferInRange_fault_iff hm v n).mpr (.inr h)

/-- Under FAULT, a transfer whose last address is v + n does not fit when that address is above 0xFFF. -/
theorem not_transferInRange_of_fault {cfg : Config} (h : cfg.addrMode = .fault) {v n : Nat} (hv : v + n > 0xFFF) :
    ¬ TransferInRange cfg v (n + 1) := by
  rw [transferInRange_fault_iff h]
  omega

theorem raise_firstOutOfRange (v : Nat) (s : State) :
    raise (.invalidAddress (firstOutOfRange v)) s =
      .next { s with event := .invalidAddress (if v > 0xFFF then v else 0x1000) } := by
  have h : firstOutOfRange v = if v > 0xFFF then v else 0x1000 := by
    unfold firstOutOfRange
    split <;> split <;> omega
  rw [h, raise, State.setEvent]

/-! ### Stores at I (R153, R154) -/

section
variable {s : State} {bs : List Byte}

theorem storeAtIndex_stores_only (h : TransferInRange s.cfg s.i.toNat bs.length) (hsmall : bs.length ≤ 4096) :
    ∃ t, storeAtIndex bs s = .next t ∧ t.event = .evNone ∧
      (∀ k < bs.length, ∀ a, AddressIs s.cfg (s.i.toNat + k) a → bs[k]? = some (t.readByte a)) ∧
      (∀ a, OutsideTransfer s.cfg s.i.toNat bs.length a → t.readByte a = s.readByte a) ∧
      t.pc = normPc s.cfg (s.pc.toNat + 2) ∧
      UnchangedExcept (fun p => (∃ a, p = .byte a) ∨ p = .pc ∨ p = .event) s t := by
  obtain ⟨m, he, -, hout, hin⟩ := storeAtIndex_in h hsmall
  have hframe : UnchangedExcept (fun p => (∃ a, p = .byte a) ∨ p = .pc ∨ p = .event) s { s with mem := m } :=
    .setMem fun a ha => absurd (.inl ⟨a, rfl⟩) ha
  exact ⟨_, he, rfl, hin, hout, rfl, (hframe.jump (by simp) _).setEvent (by simp) .evNone⟩

theorem storeAtIndex_raises {n : Nat} (hlen : bs.length = n + 1) (hm : s.cfg.addrMode = .fault)
    (hv : s.i.toNat + n > 0xFFF) :
    storeAtIndex bs s =
      .next { s with event := .invalidAddress (if s.i.toNat > 0xFFF then s.i.toNat else 0x1000) } := by
  rw [storeAtIndex_out (hlen ▸ not_transferInRange_of_fault hm hv), raise_firstOutOfRange]

end

theorem bcdDigits_map_toNat (b : Byte) :
    (bcdDigits b).map BitVec.toNat = [b.toNat / 100, b.toNat / 10 % 10, b.toNat % 10] := by
  simp only [bcdDigits, List.map_cons, List.map_nil, BitVec.toNat_ofNat, List.cons.injEq, and_true]
  omega

theorem execStRegs_stores_only {x : RegIdx} {s : State} (h : TransferInRange s.cfg s.i.toNat (x.val + 1)) :
    ∃ t, execStRegs x s = .next t ∧
      (∀ (r : RegIdx) (a : Nat), r ≤ x → AddressIs s.cfg (s.i.toNat + r.val) a → t.readByte a = s.readV r) ∧
      (∀ a, OutsideTransfer s.cfg s.i.toNat (x.val + 1) a → t.readByte a = s.readByte a) ∧
      t.pc = normPc s.cfg (s.pc.toNat + 2) ∧
      UnchangedExcept (fun p => (∃ a, p = .byte a) ∨ p = .pc ∨ p = .event) s t := by
  have hlen := s.regsUpTo_length x
  rw [← hlen] at h ⊢
  obtain ⟨t, ht, he, -, hout, hpc, hframe⟩ := storeAtIndex_stores_only h (by omega)
  obtain ⟨-, hstored⟩ := execStRegs_stores ht he
  exact ⟨t, ht, hstored, hout, hpc, hframe⟩

/-! ### Loads from I (R155) -/

theorem execLdRegs_loads_only {x : RegIdx} {s : State} (h : TransferInRange s.cfg s.i.toNat (x.val + 1)) :
    ∃ t, execLdRegs x s = .next t ∧
      (∀ (r : RegIdx) (a : Nat), r ≤ x → AddressIs s.cfg (s.i.toNat + r.val) a → t.readV r = s.readByte a) ∧
      t.pc = normPc s.cfg (s.pc.toNat + 2) ∧
      UnchangedExcept (fun p => (∃ r : RegIdx, r ≤ x ∧ p = .v r) ∨ p = .pc ∨ p = .event) s t := by
  obtain ⟨bs, hlen, hbytes, he⟩ := execLdRegs_in h
  have hframe : UnchangedExcept (fun p => (∃ r : RegIdx, r ≤ x ∧ p = .v r) ∨ p = .pc ∨ p = .event) s
      (s.writeRegsFrom 0 bs) := .writeRegsFrom fun r hlt => .inl ⟨r, Fin.le_def.mpr (by omega), rfl⟩
  refine ⟨_, he, fun r a hr ha => ?_, ?_, (hframe.jump (by simp) _).setEvent (by simp) .evNone⟩
  · have hlt : r.val < x.val + 1 := Nat.lt_succ_of_le hr
    obtain ⟨a', ha', hbyte⟩ := hbytes r.val hlt
    obtain rfl : a' = a := Except.ok.inj (ha'.symm.trans ha)
    calc (s.writeRegsFrom 0 bs).readV r
      _ = (bs[r.val]?).getD 0 := by rw [State.readV_writeRegsFrom, if_pos (by omega), Nat.sub_zero]
      _ = s.readByte a' := by rw [hbyte, Option.getD_some]
  · rw [State.writeRegsFrom_eq]
    rfl

/-! ### The statements -/

/-- Settles O34: both only set I. -/
theorem loadIndexAndGlyphAddress : Obligations.LoadIndexAndGlyphAddress := by
  refine ⟨fun op => decode_of_highNibble_A, fun op hk hb => decode_of_formXFF hk hb rfl rfl, fun nnn x s =>
    ⟨complete_setI_sets_index_only s nnn, ?_⟩⟩
  obtain ⟨t, ht, hi, hpc, hframe⟩ := complete_setI_sets_index_only s (glyphAddress (s.readV x))
  exact ⟨t, ht, hi ▸ glyphAddress_toNat _, hpc, hframe⟩

/-- Settles O35: I is written before VF, and both come from the exact sum. -/
theorem addToIndexReportsOverflow : Obligations.AddToIndexReportsOverflow := by
  refine ⟨fun op hk hb => decode_of_formXFF hk hb rfl rfl, fun x s => ?_⟩
  obtain ⟨t, ht, hi, hvf, hpc, hframe⟩ := finishResult_sets_index_and_register_only s
    (indexSum s.cfg (exactIndexSum s x)) vf (flagByte (indexOverflowFlag (exactIndexSum s x)))
  exact ⟨t, ht, fun hw => hi ▸ indexSum_wrap_toNat hw _, fun hm => hi ▸ indexSum_fault_toNat hm _,
    hvf ▸ indexOverflowFlag_toNat _, hpc, hframe⟩

/-- Settles O36: a store of three bytes, whose values are the digits. -/
theorem decimalDigitsAreStored : Obligations.DecimalDigitsAreStored := by
  refine ⟨fun op hk hb => decode_of_formXFF hk hb rfl rfl, fun x s => ⟨fun h => ?_, storeAtIndex_raises rfl⟩⟩
  obtain ⟨t, ht, -, hin, hout, hpc, hframe⟩ :=
    storeAtIndex_stores_only (bs := bcdDigits (s.readV x)) h (by simp [bcdDigits])
  have hdigit {k : Nat} (hk : k < 3) {a : Nat} (ha : AddressIs s.cfg (s.i.toNat + k) a) :
      some (t.readByte a).toNat =
        [(s.readV x).toNat / 100, (s.readV x).toNat / 10 % 10, (s.readV x).toNat % 10][k]? := by
    rw [← bcdDigits_map_toNat, List.getElem?_map, hin k hk a ha, Option.map_some]
  exact ⟨t, ht, fun a ha => Option.some.inj (hdigit (k := 0) (by decide) ha),
    fun a ha => Option.some.inj (hdigit (k := 1) (by decide) ha),
    fun a ha => Option.some.inj (hdigit (k := 2) (by decide) ha), hout, hpc, hframe⟩

/-- Settles O37: a store of V0 to Vx, by whether it is in range. -/
theorem registersAreStored : Obligations.RegistersAreStored :=
  ⟨fun _ hk hb => decode_of_formXFF hk hb rfl rfl, fun x s =>
    ⟨execStRegs_stores_only, storeAtIndex_raises (s.regsUpTo_length x)⟩⟩

/-- Settles O38, by whether the transfer is in range. -/
theorem registersAreLoaded : Obligations.RegistersAreLoaded := by
  refine ⟨fun op hk hb => decode_of_formXFF hk hb rfl rfl, fun x s => ⟨execLdRegs_loads_only, fun hm hv => ?_⟩⟩
  rw [exec, execLdRegs_out (not_transferInRange_of_fault hm hv), raise_firstOutOfRange]

/-- Settles O39: A(I + r) is I + r for both instructions, and the byte there is V[r] after the first. -/
theorem storeThenLoadRestoresRegisters : Obligations.StoreThenLoadRestoresRegisters := by
  intro x s t u hfit hst hcfg hi hbytes
  have hrange : TransferInRange s.cfg s.i.toNat (x.val + 1) := transferInRange_of_le _ (by omega)
  obtain ⟨t', ht', hstored, -, -, hframe⟩ := execStRegs_stores_only hrange
  obtain rfl : t' = t := by
    cases ht'.symm.trans hst
    rfl
  have hucfg : u.cfg = s.cfg := hcfg.trans (hframe .cfg (by simp))
  have hui : u.i = s.i := hi.trans (hframe .i (by simp))
  obtain ⟨w, hw, hloaded, -, -⟩ := execLdRegs_loads_only (s := u) (x := x) (by rwa [hucfg, hui])
  refine ⟨w, hw, fun r hr => ?_⟩
  have hrx : r.val ≤ x.val := hr
  have haddr : formAddr s.cfg (s.i.toNat + r.val) = .ok (s.i.toNat + r.val) := formAddr_of_le _ (by omega)
  calc w.readV r
    _ = u.readByte (s.i.toNat + r.val) := hloaded r _ hr (by rwa [hucfg, hui])
    _ = t'.readByte (s.i.toNat + r.val) := hbytes r.val hrx
    _ = s.readV r := hstored r _ hr haddr

end Sys2Proof.Machine
end

section
/-! PROOFS. The statements of 43_display.md: clearing the screen, drawing sprites, and the renderer's port. -/

namespace Sys2Proof

/-! ### The words of the display (30_encoding.md R79, R81) -/

theorem decode_eq_cls_iff (op : Word) : decode op = .instr .cls ↔ op = 0x00E0 := by
  constructor
  · exact fun h => (encode_of_decode h).symm
  · rintro rfl
    rfl

theorem decode_of_highNibble_D {op : Word} (h : slice op 12 4 = 0xD) :
    decode op = .instr (.drw (opX op) (opY op) (opN op)) := by
  simp [decode, h]

end Sys2Proof

namespace Sys2Proof.Machine

/-! ### A draw that completes, cell by cell (R171 to R176) -/

theorem markedFlag_eq_ite (mode : DirtyUpdate) (old : Bool) : markedFlag mode old = if mode = .set then true else !old := by
  cases mode <;> rfl

theorem flagByte_eq_one_iff (c : Bool) : flagByte c = 1 ↔ c = true := by
  cases c <;> decide

theorem flagByte_eq_zero_iff (c : Bool) : flagByte c = 0 ↔ c = false := by
  cases c <;> decide

/-- `t` is what a Dxyn leaves of `s` that drew these rows at (px, py). -/
structure DrewSprite (rows : List Byte) (px py : Nat) (s t : State) : Prop where
  pixel : ∀ cx cy, OnScreen cx cy → Grid.get t.fb cx cy = (Grid.get s.fb cx cy != spriteCovers rows px py cx cy)
  dirty : ∀ cx cy, OnScreen cx cy → Grid.get t.dirty cx cy =
    if spriteCovers rows px py cx cy then (if s.cfg.dirtyUpdate = .set then true else !Grid.get s.dirty cx cy)
    else Grid.get s.dirty cx cy
  collision : t.readV vf = 1 ↔ Collides s.fb rows px py
  noCollision : t.readV vf = 0 ↔ ¬ Collides s.fb rows px py
  pc : t.pc = normPc s.cfg (s.pc.toNat + 2)
  frame : UnchangedExcept
    (fun p => (∃ cx cy, p = .pixel cx cy ∨ p = .dirty cx cy) ∨ p = .v vf ∨ p = .pc ∨ p = .event) s t

theorem complete_drawSprite_drew (s : State) (px py : Nat) (rows : List Byte) :
    ∃ t, complete (drawSprite s px py rows).advance = .next t ∧ DrewSprite rows px py s t := by
  have hdrawn := s.drawing_drawn px py rows
  have hcoll := s.drawing_coll px py rows
  have hvf : (drawSprite s px py rows).readV vf = flagByte (s.drawing px py rows).coll :=
    (State.readV_writeV _ vf vf _).trans (if_pos rfl)
  refine ⟨_, rfl, hdrawn.fb, fun cx cy hs => ?_, ?_, ?_, rfl,
    ((((UnchangedExcept.refl _ s).setDisplay (by simp) (by simp) _).writeV (by simp) _).jump (by simp) _).setEvent
      (by simp) .evNone⟩
  · rw [← markedFlag_eq_ite]
    exact hdrawn.dirty cx cy hs
  · rw [← hcoll, ← flagByte_eq_one_iff, ← hvf]
    rfl
  · rw [← hcoll, Bool.not_eq_true, ← flagByte_eq_zero_iff, ← hvf]
    rfl

section
variable {s t : State} {n : Nat} {rows : List Byte}

/-- A draw completes exactly as the rows of the sprite at I say, for they are the rows it reads. -/
theorem exec_drw_of_rows (h : SpriteRows s n rows) (x y : RegIdx) :
    ∃ t, exec (.drw x y n) s = .next t ∧ DrewSprite rows (s.readV x).toNat (s.readV y).toNat s t := by
  obtain ⟨rows', h', he⟩ := execDrw_in h.inRange x y
  obtain rfl : rows' = rows := h'.unique h
  rw [exec, he]
  exact complete_drawSprite_drew s _ _ _

theorem DrewSprite.of_exec {x y : RegIdx} (h : SpriteRows s n rows) (ht : exec (.drw x y n) s = .next t) :
    DrewSprite rows (s.readV x).toNat (s.readV y).toNat s t := by
  obtain ⟨t', ht', hdrew⟩ := exec_drw_of_rows h x y
  cases ht'.symm.trans ht
  exact hdrew

end

/-- Settles O43: the bytes at I are the sprite's rows, and the draw is read cell by cell. -/
theorem drawXorsTheSprite : Obligations.DrawXorsTheSprite := by
  refine ⟨fun op => decode_of_highNibble_D, fun x y n s h => ?_⟩
  obtain ⟨rows, hrows, -⟩ := execDrw_in h x y
  obtain ⟨t, ht, hdrew⟩ := exec_drw_of_rows hrows x y
  exact ⟨rows, t, hrows, ht, fun cx cy hs => ⟨hdrew.pixel cx cy hs, hdrew.dirty cx cy hs⟩, hdrew.collision.mpr,
    hdrew.noCollision.mpr, hdrew.pc, hdrew.frame⟩

/-! ### The addresses of a sprite (R177) -/

theorem firstOutOfRange_eq {v r : Nat} (hr : v + r > 0xFFF) (hfirst : ∀ q < r, v + q ≤ 0xFFF) :
    firstOutOfRange v = v + r := by
  unfold firstOutOfRange
  cases r with
  | zero => exact if_neg (by omega)
  | succ q =>
    have := hfirst q (by omega)
    rw [if_pos (by omega)]
    omega

/-- Settles O44, by the value of ADDR_MODE. -/
theorem drawChecksEveryAddressFirst : Obligations.DrawChecksEveryAddressFirst := by
  intro x y n s
  constructor
  · intro hm r hr hout hfirst
    have hrange : ¬ TransferInRange s.cfg s.i.toNat n := by
      rw [transferInRange_fault_iff hm]
      omega
    rw [exec, execDrw_out hrange, firstOutOfRange_eq hout hfirst, raise, State.setEvent]
  · intro hm
    have hrange : TransferInRange s.cfg s.i.toNat n := by
      rw [TransferInRange, hm]
      trivial
    obtain ⟨rows, ⟨hlen, hbytes⟩, he⟩ := execDrw_in hrange x y
    refine ⟨rows, _, hlen, fun r hr => ?_, he, rfl⟩
    obtain ⟨a, ha, hbyte⟩ := hbytes r hr
    obtain rfl : (s.i.toNat + r) % 4096 = a := Except.ok.inj ((formAddr_wrap hm _).symm.trans ha)
    exact hbyte

/-! ### Two draws of one sprite, and a draw on a clear screen (R178, R179) -/

section
variable {rows : List Byte} {px py : Nat} {s t u w : State}

/-- A draw inverts the pixels it covers, so the next draw collides on those that were off. -/
theorem DrewSprite.collides_iff_off (h : DrewSprite rows px py s t) :
    Collides t.fb rows px py ↔
      ∃ cx cy, OnScreen cx cy ∧ spriteCovers rows px py cx cy = true ∧ Grid.get s.fb cx cy = false := by
  refine exists_congr fun cx => exists_congr fun cy => and_congr_right fun hs => and_congr_right fun hc => ?_
  rw [h.pixel cx cy hs, hc]
  simp

theorem DrewSprite.fb_restored (h : DrewSprite rows px py s t) (hu : u.fb = t.fb) (h' : DrewSprite rows px py u w) :
    w.fb = s.fb := by
  refine Grid.ext fun cx cy hs => ?_
  rw [h'.pixel cx cy hs, hu, h.pixel cx cy hs]
  simp

theorem DrewSprite.dirty_restored (h : DrewSprite rows px py s t) (hu : u.dirty = t.dirty)
    (h' : DrewSprite rows px py u w) (hs : s.cfg.dirtyUpdate = .toggle) (hcfg : u.cfg = s.cfg) : w.dirty = s.dirty := by
  refine Grid.ext fun cx cy hon => ?_
  rw [h'.dirty cx cy hon, hu, h.dirty cx cy hon, hcfg, hs]
  cases spriteCovers rows px py cx cy <;> simp

theorem DrewSprite.dirty_of_set (h : DrewSprite rows px py s t) (hm : s.cfg.dirtyUpdate = .set) {cx cy : Nat}
    (hs : OnScreen cx cy) (hc : spriteCovers rows px py cx cy = true) : Grid.get t.dirty cx cy = true := by
  rw [h.dirty cx cy hs, if_pos hc, if_pos hm]

end

/-- Settles O45: what the first draw made of the pixels is what the second meets. -/
theorem drawingTwiceRestoresThePixels : Obligations.DrawingTwiceRestoresThePixels := by
  intro x y x' y' n rows s t u w hs hu hx hy ht hfb hcfg hw covers
  have h₁ : DrewSprite rows (s.readV x).toNat (s.readV y).toNat s t := .of_exec hs ht
  have h₂ : DrewSprite rows (s.readV x).toNat (s.readV y).toNat u w := by
    rw [← hx, ← hy]
    exact .of_exec hu hw
  have hoff := h₁.collides_iff_off
  rw [← hfb] at hoff
  refine ⟨h₁.fb_restored hfb h₂, h₂.collision.trans hoff, fun hlit hsome => ⟨?_, ?_⟩,
    fun hm hd => h₁.dirty_restored hd h₂ hm hcfg, fun hm cx cy => h₂.dirty_of_set (by rwa [hcfg])⟩
  · obtain ⟨cx, cy, hon, hc⟩ := hsome
    exact h₁.collision.mpr ⟨cx, cy, hon, hc, hlit cx cy hon hc⟩
  · rw [h₂.noCollision, hoff]
    rintro ⟨cx, cy, hon, hc, hf⟩
    rw [hlit cx cy hon hc] at hf
    cases hf

/-- CLS completes, and clears the screen (R170). -/
theorem exec_cls (s : State) :
    ∃ t, exec .cls s = .next t ∧ t.fb = Grid.blank ∧ t.dirty = Grid.blank ∧ t.fullRedraw = true ∧
      t.pc = normPc s.cfg (s.pc.toNat + 2) ∧
      UnchangedExcept
        (fun p => (∃ cx cy, p = .pixel cx cy ∨ p = .dirty cx cy) ∨ p = .fullRedraw ∨ p = .pc ∨ p = .event) s t :=
  ⟨_, rfl, rfl, rfl, rfl, rfl,
    (((UnchangedExcept.refl _ s).clearDisplay (by simp) (by simp) (by simp)).jump (by simp) _).setEvent (by simp) .evNone⟩

theorem not_collides_blank (rows : List Byte) (px py : Nat) : ¬ Collides Grid.blank rows px py := by
  rintro ⟨cx, cy, -, -, hf⟩
  rw [Grid.get_blank] at hf
  cases hf

/-- Settles O46: a sprite XORed into the blank grid is the sprite. -/
theorem firstDrawAfterClearDoesNotCollide : Obligations.FirstDrawAfterClearDoesNotCollide := by
  intro x y n rows s t u w ht hfb hrows hw
  have hdrew := DrewSprite.of_exec hrows hw
  obtain ⟨t', ht', hblank, -⟩ := exec_cls s
  cases ht'.symm.trans ht
  rw [hblank] at hfb
  refine ⟨hdrew.noCollision.mpr (hfb ▸ not_collides_blank rows _ _), fun cx cy hs => ?_⟩
  rw [hdrew.pixel cx cy hs, hfb, Grid.get_blank, Bool.false_bne]

/-- Settles O42: every cell of a blank grid is off. -/
theorem clearScreenAsksForRedraw : Obligations.ClearScreenAsksForRedraw := by
  refine ⟨decode_eq_cls_iff, fun s => ?_⟩
  obtain ⟨t, ht, hfb, hdirty, hredraw, hpc, hframe⟩ := exec_cls s
  exact ⟨t, ht, fun cx cy => ⟨hfb ▸ Grid.get_blank cx cy, hdirty ▸ Grid.get_blank cx cy⟩, hredraw, hpc, hframe⟩

/-! ### The renderer's port (R180, R181, R183) -/

/-- The coordinates that the port takes for a cell of the screen (R180). -/
abbrev PortOnScreen (x y : Int) : Prop := 0 ≤ x ∧ x < 64 ∧ 0 ≤ y ∧ y < 32

section
variable {x y : Int} (s : State)

theorem fbReadOp_of_on (h : PortOnScreen x y) :
    fbReadOp x y s = .cell (Grid.get s.fb x.toNat y.toNat) (Grid.get s.dirty x.toNat y.toNat) := by
  rw [fbReadOp, cellNumber, if_pos h]

theorem fbReadOp_of_off (h : ¬ PortOnScreen x y) : fbReadOp x y s = .cell false false := by
  rw [fbReadOp, cellNumber, if_neg h]

theorem fbClearDirtyOp_of_on (h : PortOnScreen x y) :
    fbClearDirtyOp x y s = { s with dirty := Grid.set s.dirty x.toNat y.toNat false } := by
  rw [fbClearDirtyOp, cellNumber, if_pos h]

theorem fbClearDirtyOp_of_off (h : ¬ PortOnScreen x y) : fbClearDirtyOp x y s = s := by
  rw [fbClearDirtyOp, cellNumber, if_neg h]

theorem unchangedExcept_clearDirty (cx cy : Nat) :
    UnchangedExcept (fun p => p = .dirty cx cy) s { s with dirty := Grid.set s.dirty cx cy false } := by
  intro p hp
  cases p with
  | dirty x' y' =>
    have hne : ¬ (x' = cx ∧ y' = cy) := by
      rintro ⟨rfl, rfl⟩
      exact hp rfl
    rw [SamePart, Grid.get_set, if_neg fun h => hne h.1]
  | _ => rfl

end

/-- Settles O47, by whether the cell is on the screen. -/
theorem rendererPortReadsAndClears : Obligations.RendererPortReadsAndClears := by
  refine fun s x y => ⟨fun hx hx' hy hy' => ?_, fun hoff => ?_, rfl, rfl⟩
  · have hon : PortOnScreen x y := ⟨hx, hx', hy, hy'⟩
    have hcell : OnScreen x.toNat y.toNat := by omega
    refine ⟨by rw [transact, fbReadOp_of_on s hon], _, by rw [transact, fbClearDirtyOp_of_on s hon], ?_,
      unchangedExcept_clearDirty s _ _⟩
    rw [Grid.get_set, if_pos ⟨⟨rfl, rfl⟩, hcell⟩]
  · exact ⟨by rw [transact, fbReadOp_of_off s hoff], by rw [transact, fbClearDirtyOp_of_off s hoff]⟩

/-- `t` is `s` but for dirty flags and FULL_REDRAW, of which none is set. -/
structure ClearsFlagsOnly (s t : State) : Prop where
  rest : t = { s with dirty := t.dirty, fullRedraw := t.fullRedraw }
  dirty : ∀ cx cy, Grid.get t.dirty cx cy = true → Grid.get s.dirty cx cy = true
  fullRedraw : t.fullRedraw = true → s.fullRedraw = true

theorem ClearsFlagsOnly.refl (s : State) : ClearsFlagsOnly s s := ⟨rfl, fun _ _ => id, id⟩

theorem ClearsFlagsOnly.trans {s t u : State} (h₁ : ClearsFlagsOnly s t) (h₂ : ClearsFlagsOnly t u) :
    ClearsFlagsOnly s u := by
  refine ⟨?_, fun cx cy h => h₁.dirty cx cy (h₂.dirty cx cy h), fun h => h₁.fullRedraw (h₂.fullRedraw h)⟩
  have h := h₂.rest
  rwa [h₁.rest] at h

theorem fbClearDirtyOp_clears (x y : Int) (s : State) : ClearsFlagsOnly s (fbClearDirtyOp x y s) := by
  by_cases hon : PortOnScreen x y
  · rw [fbClearDirtyOp_of_on s hon]
    refine ⟨rfl, fun cx cy h => ?_, id⟩
    rw [Grid.get_set] at h
    split at h
    · cases h
    · exact h
  · rw [fbClearDirtyOp_of_off s hon]
    exact .refl s

theorem transact_renderer {op : IfaceOp} (h : op.isRenderer = true) (s : State) :
    ∃ t r, transact op s = .next (t, r) ∧ ClearsFlagsOnly s t := by
  cases op with
  | fbRead | fbReadFullRedraw => exact ⟨s, _, rfl, .refl s⟩
  | fbClearDirty x y => exact ⟨_, _, rfl, fbClearDirtyOp_clears x y s⟩
  | fbClearFullRedraw => exact ⟨_, _, rfl, rfl, fun _ _ => id, fun h => absurd h Bool.false_ne_true⟩
  | _ => cases h

theorem transactAll_renderer {ops : List IfaceOp} (h : ∀ op ∈ ops, op.isRenderer = true) (s : State) :
    ∃ t rs, transactAll ops s = .next (t, rs) ∧ ClearsFlagsOnly s t := by
  induction ops generalizing s with
  | nil => exact ⟨s, [], rfl, .refl s⟩
  | cons op ops ih =>
    obtain ⟨hop, hops⟩ := List.forall_mem_cons.mp h
    obtain ⟨t, r, ht, hclear⟩ := transact_renderer hop s
    obtain ⟨u, rs, hu, hclear'⟩ := ih hops t
    exact ⟨u, r :: rs, by simp only [transactAll, ht, hu], hclear.trans hclear'⟩

/-- Settles O48, by induction on the list of operations. -/
theorem rendererOnlyClearsItsFlags : Obligations.RendererOnlyClearsItsFlags := by
  intro ops s h
  obtain ⟨t, rs, ht, hclear⟩ := transactAll_renderer h s
  exact ⟨t, rs, ht, hclear.rest, hclear.dirty, hclear.fullRedraw⟩

end Sys2Proof.Machine
end

section
/-! PROOFS. The statements of 44_timers_keys.md: the timers, the key tests, and the keypad port. -/

namespace Sys2Proof.Machine

/-! ### What a running tick leaves unchanged -/

section
variable {i : Instr} {s t : State}

theorem TickExecutes.running (h : TickExecutes s i) : s.run = .running := h.1

theorem step_of_tickExecutes (h : TickExecutes s i) : step s = exec i (tickTimers s) := by
  obtain ⟨hrun, op, hf, hd⟩ := h
  exact step_of_fetch_instr hrun (fetch_tickTimers s ▸ hf) hd

/-- A running tick raises, or it executes the instruction it decodes; either way on the state after its decrement. -/
theorem step_next_cases (hrun : s.run = .running) (ht : step s = .next t) :
    (∃ e, t = (tickTimers s).setEvent e) ∨ ∃ i, TickExecutes s i ∧ exec i (tickTimers s) = .next t := by
  obtain ⟨e, -, hs⟩ | ⟨-, w, -, -, hs⟩ | ⟨op, i, hf, hd, hs⟩ := step_cases hrun <;> rw [hs] at ht
  · cases ht
    exact .inl ⟨e, rfl⟩
  · cases ht
    exact .inl ⟨_, rfl⟩
  · exact .inr ⟨i, ⟨hrun, op, (fetch_tickTimers s).trans hf, hd⟩, ht⟩

/-- Past its decrement, a tick changes only what the instruction it executes may write, PC and the event port. -/
theorem step_samePart {p : Part} (hrun : s.run = .running) (ht : step s = .next t) (he : p ≠ .event)
    (hp : ∀ i, TickExecutes s i → ¬ mayWrite i (tickTimers s) p) : SamePart (tickTimers s) t p := by
  obtain ⟨e, rfl⟩ | ⟨i, hi, hexec⟩ := step_next_cases hrun ht
  · exact (UnchangedExcept.refl (fun q => q = .event) _).setEvent rfl e p he
  · exact instructionsWriteOnlyTheirState i _ t hexec p (hp i hi)

variable (i s)

theorem not_mayWrite_cfg : ¬ mayWrite i s .cfg := by cases i <;> simp [mayWrite]

theorem not_mayWrite_run : ¬ mayWrite i s .run := by cases i <;> simp [mayWrite]

theorem mayWrite_dt_iff : mayWrite i s .dt ↔ ∃ x, i = .ldDtV x := by cases i <;> simp [mayWrite]

theorem mayWrite_st_iff : mayWrite i s .st ↔ ∃ x, i = .ldStV x := by cases i <;> simp [mayWrite]

end

/-! ### The timers over n ticks (R190, R192) -/

/-- A state whose tick decrements the timers (R190). -/
structure Counting (s : State) : Prop where
  coupled : s.cfg.timerMode = .coupled
  running : s.run = .running

section
variable {s t u : State}

theorem Counting.tickTimers_eq (h : Counting s) : tickTimers s = timerDecrement s := tickTimers_coupled h.coupled

theorem Counting.samePart {p : Part} (h : Counting s) (ht : step s = .next t) (he : p ≠ .event)
    (hp : ∀ i, TickExecutes s i → ¬ mayWrite i (timerDecrement s) p) : SamePart (timerDecrement s) t p := by
  rw [← h.tickTimers_eq] at hp ⊢
  exact step_samePart h.running ht he hp

theorem Counting.step (h : Counting s) (ht : step s = .next t) : Counting t := by
  have hcfg : t.cfg = s.cfg := h.samePart (p := .cfg) ht (by simp) fun i _ => not_mayWrite_cfg i _
  have hrun : t.run = s.run := h.samePart (p := .run) ht (by simp) fun i _ => not_mayWrite_run i _
  exact ⟨hcfg ▸ h.coupled, hrun ▸ h.running⟩

theorem Counting.step_dt (h : Counting s) (ht : Machine.step s = .next t)
    (hno : ∀ i, TickExecutes s i → ¬ ∃ x, i = .ldDtV x) : t.dt.toNat = s.dt.toNat - 1 := by
  have hdt : t.dt = countDown s.dt :=
    h.samePart (p := .dt) ht (by simp) fun i hi => mt (mayWrite_dt_iff i _).mp (hno i hi)
  rw [hdt, countDown_toNat]

theorem Counting.step_st (h : Counting s) (ht : Machine.step s = .next t)
    (hno : ∀ i, TickExecutes s i → ¬ ∃ x, i = .ldStV x) : t.st.toNat = s.st.toNat - 1 := by
  have hst : t.st = countDown s.st :=
    h.samePart (p := .st) ht (by simp) fun i hi => mt (mayWrite_st_iff i _).mp (hno i hi)
  rw [hst, countDown_toNat]

theorem step_of_run_succ {M : Host.Core} {n : Nat} {s u : M.State} (h : M.run (n + 1) s = .next u) :
    ∃ t, M.step s = .next t ∧ M.run n t = .next u := by
  rw [Host.Core.run] at h
  split at h
  · exact ⟨_, ‹_›, h⟩
  · cases h
  · cases h

theorem Counting.run {n : Nat} (h : Counting s) (hu : Host.Core.run Sys2Proof.core n s = .next u) : Counting u := by
  induction n generalizing s with
  | zero =>
    cases hu
    exact h
  | succ n ih =>
    obtain ⟨t, ht, hu⟩ := step_of_run_succ hu
    exact ih (h.step ht) hu

/-- A timer that each tick without an instruction of `p` lowers by 1 is lowered by n in n such ticks. -/
theorem Counting.run_lowers {timer : State → Byte} {p : Instr → Prop}
    (hstep : ∀ {s t : State}, Counting s → Machine.step s = .next t → (∀ i, TickExecutes s i → ¬ p i) →
      (timer t).toNat = (timer s).toNat - 1)
    {n : Nat} (h : Counting s) (hu : Host.Core.run Sys2Proof.core n s = .next u) (hno : NoneOfNextTicks p n s) :
    (timer u).toNat = (timer s).toNat - n := by
  induction n generalizing s with
  | zero =>
    cases hu
    rfl
  | succ n ih =>
    obtain ⟨t, ht, hu⟩ := step_of_run_succ hu
    obtain ⟨hfirst, hrest⟩ := hno
    rw [ih (h.step ht) hu (hrest t ht), hstep h ht hfirst]
    omega

/-- A tick that executes Fx07 copies DT as the tick's decrement leaves it (R194). -/
theorem Counting.step_ldVDt (h : Counting s) {x : RegIdx} (hx : TickExecutes s (.ldVDt x)) :
    ∃ t, Machine.step s = .next t ∧ (t.readV x).toNat = s.dt.toNat - 1 ∧ t.dt = t.readV x := by
  obtain ⟨t, ht, hv, -, hframe⟩ := finishResult_sets_register_only (timerDecrement s) x (timerDecrement s).dt
  have hdt : t.dt = (timerDecrement s).dt := hframe .dt (by simp)
  refine ⟨t, ?_, ?_, hdt.trans hv.symm⟩
  · rw [step_of_tickExecutes hx, h.tickTimers_eq]
    exact ht
  · rw [hv, timerDecrement_dt, countDown_toNat]

end

/-- Settles O14: each tick but one that executes Fx15 (Fx18) lowers DT (ST) by 1, and the Fx07 reads what n ticks and its
own decrement leave. -/
theorem delayTimerCountsTicks : Obligations.DelayTimerCountsTicks := by
  intro n s u hm hrun hu
  have hs : Counting s := ⟨hm, hrun⟩
  refine ⟨fun hno => ?_, hs.run_lowers Counting.step_st hu⟩
  have hdt : u.dt.toNat = s.dt.toNat - n := hs.run_lowers Counting.step_dt hu hno
  refine ⟨hdt, fun x hx => ?_⟩
  obtain ⟨w, hw, hv, -⟩ := (hs.run hu).step_ldVDt hx
  exact ⟨w, hw, by omega⟩

/-! ### TimerDecrement, and a tick that reports an event (R190) -/

theorem timerDecrement_sets_timers_only (s : State) :
    UnchangedExcept (fun p => p = .dt ∨ p = .st) s (timerDecrement s) := by
  intro p hp
  cases p with
  | dt | st => simp at hp
  | _ => rfl

theorem countDown_toNat_eq_ite (b : Byte) : (countDown b).toNat = if b.toNat > 0 then b.toNat - 1 else 0 := by
  rw [countDown_toNat]
  split <;> omega

/-- No instruction that reports an event has written a timer. -/
theorem exec_timers_of_event {i : Instr} {s t : State} (ht : exec i s = .next t) (he : t.event ≠ .evNone) :
    t.dt = s.dt ∧ t.st = s.st := by
  obtain ⟨hnone, -⟩ | ⟨e, -, rfl⟩ | ⟨nnn, -, -, rfl⟩ := exec_next_cases ht
  · exact absurd hnone he
  · exact ⟨rfl, rfl⟩
  · exact ⟨rfl, rfl⟩

theorem step_timers_of_event {s t : State} (hrun : s.run = .running) (ht : step s = .next t) (he : t.event ≠ .evNone) :
    t.dt = (tickTimers s).dt ∧ t.st = (tickTimers s).st := by
  obtain ⟨e, rfl⟩ | ⟨i, -, hexec⟩ := step_next_cases hrun ht
  · exact ⟨rfl, rfl⟩
  · exact exec_timers_of_event hexec he

/-- Settles O11: the decrement comes before the fetch, and what raises after it writes no timer. -/
theorem timersCountDownOncePerTick : Obligations.TimersCountDownOncePerTick := by
  refine fun s => ⟨countDown_toNat_eq_ite s.dt, countDown_toNat_eq_ite s.st, timerDecrement_sets_timers_only s,
    fun hm hrun => ?_⟩
  rw [← tickTimers_coupled hm]
  exact ⟨step_running hrun, fun t => step_timers_of_event hrun⟩

/-! ### TIMER_TICK and SOUND_ACTIVE (R191, R193) -/

section
variable {s : State}

theorem timerTickOp_of_counts (hm : s.cfg.timerMode = .independent) (hrun : s.run = .running) :
    timerTickOp s = timerDecrement s := by
  simp [timerTickOp, hm, hrun]

theorem timerTickOp_of_not_counts (h : s.cfg.timerMode = .coupled ∨ s.run ≠ .running) : timerTickOp s = s := by
  obtain hm | hrun := h
  · simp [timerTickOp, hm]
  · unfold timerTickOp
    split
    · exact absurd ‹_› hrun
    all_goals rfl

theorem soundActive_eq_decide (s : State) : soundActive s = decide (s.st.toNat ≠ 0) := byte_bne_eq_decide s.st 0

theorem st_of_soundActive_falls (h : soundActive s = true) (h' : soundActive (timerDecrement s) = false) :
    s.st.toNat = 1 := by
  rw [soundActive_eq_decide, decide_eq_true_eq] at h
  rw [soundActive_eq_decide, timerDecrement_st, countDown_toNat, decide_eq_false_iff_not] at h'
  omega

end

/-- Settles O12, by TIMER_MODE and the run state. -/
theorem timerTickAndSoundActive : Obligations.TimerTickAndSoundActive := by
  refine fun s => ⟨fun hm hrun => ?_, fun hm hrun => ?_, fun h => ?_, ?_, st_of_soundActive_falls⟩
  · rw [step_running hrun, tickTimers_independent hm]
  · rw [transact, timerTickOp_of_counts hm hrun]
  · rw [transact, timerTickOp_of_not_counts h]
  · rw [transact, soundActive_eq_decide]

/-! ### Fx07, Fx15 and Fx18 (R194, R195, R196) -/

section
variable (x : RegIdx) (s : State)

theorem exec_ldDtV :
    ∃ t, exec (.ldDtV x) s = .next t ∧ t.dt = s.readV x ∧ t.pc = normPc s.cfg (s.pc.toNat + 2) ∧
      UnchangedExcept (fun p => p = .dt ∨ p = .pc ∨ p = .event) s t :=
  ⟨_, rfl, rfl, rfl,
    (((UnchangedExcept.refl _ s).setDt (by simp) (s.readV x)).jump (by simp) _).setEvent (by simp) .evNone⟩

theorem exec_ldStV :
    ∃ t, exec (.ldStV x) s = .next t ∧ t.st = s.readV x ∧ soundActive t = decide ((s.readV x).toNat ≠ 0) ∧
      t.pc = normPc s.cfg (s.pc.toNat + 2) ∧ UnchangedExcept (fun p => p = .st ∨ p = .pc ∨ p = .event) s t :=
  ⟨_, rfl, rfl, soundActive_eq_decide _, rfl,
    (((UnchangedExcept.refl _ s).setSt (by simp) (s.readV x)).jump (by simp) _).setEvent (by simp) .evNone⟩

variable {x s}

/-- The decrement comes before Fx15 writes DT, and there is none after it (R195). -/
theorem step_ldDtV (hx : TickExecutes s (.ldDtV x)) : ∃ t, step s = .next t ∧ t.dt = s.readV x := by
  obtain ⟨t, ht, hdt, -, -⟩ := exec_ldDtV x (tickTimers s)
  have hv : (tickTimers s).readV x = s.readV x := by
    rw [tickTimers_eq]
    rfl
  exact ⟨t, (step_of_tickExecutes hx).trans ht, hdt.trans hv⟩

end

/-- Settles O49: each of the three moves one byte, and the tick's decrement comes before it. -/
theorem timerInstructionsMoveTheTimers : Obligations.TimerInstructionsMoveTheTimers :=
  ⟨fun _ hk hb => decode_of_formXFF hk hb rfl rfl, fun _ hk hb => decode_of_formXFF hk hb rfl rfl,
    fun _ hk hb => decode_of_formXFF hk hb rfl rfl, fun x s =>
      ⟨finishResult_sets_register_only s x s.dt, exec_ldDtV x s, exec_ldStV x s,
        fun hx hm => Counting.step_ldVDt ⟨hm, hx.running⟩ hx, step_ldDtV⟩⟩

/-! ### Ex9E and ExA1 (R197, R198, R200) -/

/-- Both skips, when the key index is accepted and `k` is that index. -/
theorem keySkips_of_index {x : RegIdx} {s : State} {k : Nat} (hk : k = (s.readV x).toNat % 16)
    (h : s.cfg.keyIndexMode = .mask ∨ (s.readV x).toNat ≤ 15) :
    (∃ t, exec (.skp x) s = .next t ∧ t.pc = normPc s.cfg (s.pc.toNat + if s.key k then 4 else 2) ∧
      UnchangedExcept (fun p => p = .pc ∨ p = .event) s t) ∧
    (∃ t, exec (.sknp x) s = .next t ∧ t.pc = normPc s.cfg (s.pc.toNat + if s.key k then 2 else 4) ∧
      UnchangedExcept (fun p => p = .pc ∨ p = .event) s t) := by
  subst hk
  constructor
  · obtain ⟨t, ht, hframe, hpc⟩ :=
      complete_skipIf_sets_pc_only (P := s.key ((s.readV x).toNat % 16) = true) (by rw [Bool.decide_eq_true]) s
    exact ⟨t, (skipOnKey_ok h true).trans (by rw [beq_true, ht]), hpc, hframe⟩
  · obtain ⟨t, ht, hframe, hpc⟩ :=
      complete_skipIf_sets_pc_only (P := ¬ s.key ((s.readV x).toNat % 16) = true)
        (by rw [decide_not, Bool.decide_eq_true]) s
    rw [ite_not] at hpc
    exact ⟨t, (skipOnKey_ok h false).trans (by rw [beq_false, ht]), hpc, hframe⟩

/-- Settles O50: under MASK, and under FAULT up to 15, the key index is V[x] mod 16. -/
theorem keySkipsTestTheKey : Obligations.KeySkipsTestTheKey :=
  ⟨fun _ hk hb => decode_of_formXFF hk hb rfl rfl, fun _ hk hb => decode_of_formXFF hk hb rfl rfl, fun _ _ _ =>
    ⟨fun hm hk => keySkips_of_index hk (.inl hm), fun _ hk hle => keySkips_of_index (by omega) (.inr (hk ▸ hle)),
      fun hm hv => ⟨skipOnKey_error hm hv true, skipOnKey_error hm hv false⟩⟩⟩

/-! ### Fx0A (R199) -/

section
variable {s : State}

theorem exec_ldK_of_none (h : lowestHeldKey s = none) (x : RegIdx) : exec (.ldK x) s = raise (.keyWait x) s := by
  rw [exec, execLdK, h]

theorem exec_ldK_of_some {k : Nat} (h : lowestHeldKey s = some k) (x : RegIdx) :
    exec (.ldK x) s = finishResult s x (BitVec.ofNat 8 k) := by
  rw [exec, execLdK, h, finishResult]

end

/-- Settles O51, by whether a key of the range is held. -/
theorem waitForKeyCapturesTheLowest : Obligations.WaitForKeyCapturesTheLowest := by
  refine ⟨fun _ hk hb => decode_of_formXFF hk hb rfl rfl, fun x s =>
    ⟨fun h => exec_ldK_of_none (lowestHeldKey_none h) x, fun k hk hheld hlow => ?_⟩⟩
  obtain ⟨t, ht, hv, hpc, hframe⟩ := finishResult_sets_register_only s x (BitVec.ofNat 8 k)
  have hlt := s.cfg.fx0aKeyMax.isLt
  have hval : (BitVec.ofNat 8 k).toNat = k := Nat.mod_eq_of_lt (by omega)
  exact ⟨t, (exec_ldK_of_some (lowestHeldKey_some hk hheld hlow) x).trans ht, by rw [hv, hval], hpc, hframe⟩

/-! ### The keypad port (R204) -/

section
variable (s : State)

theorem State.key_setKey {k : Nat} (hk : k < 16) (b : Bool) (j : Nat) :
    (s.setKey k b).key j = if j = k then b else s.key j := by
  rw [State.key, State.setKey_keys]
  split
  · subst j
    rw [Vector.getElem?_setIfInBounds_self_of_lt hk, Option.getD_some]
  · rw [Vector.getElem?_setIfInBounds_ne (by omega), State.key]

theorem unchangedExcept_setKey {k : Nat} (hk : k < 16) (b : Bool) :
    UnchangedExcept (fun p => p = .key k) s (s.setKey k b) := by
  intro p hp
  cases p with
  | key j =>
    have hne : j ≠ k := fun h => hp (congrArg Part.key h)
    rw [SamePart, s.key_setKey hk, if_neg hne]
  | _ => rfl

variable {i : Int}

theorem keyNumber_of_key (h : 0 ≤ i ∧ i ≤ 15) : keyNumber i = some i.toNat := if_pos h

theorem keyNumber_of_no_key (h : ¬ (0 ≤ i ∧ i ≤ 15)) : keyNumber i = none := if_neg h

theorem keySetOp_sets_key_only (h : 0 ≤ i ∧ i ≤ 15) (b : Bool) :
    ∃ t, keySetOp i b s = (t, .ok) ∧ t.key i.toNat = b ∧ UnchangedExcept (fun p => p = .key i.toNat) s t := by
  have hk : i.toNat < 16 := by omega
  refine ⟨s.setKey i.toNat b, ?_, ?_, unchangedExcept_setKey s hk b⟩
  · rw [keySetOp, keyNumber_of_key h]
  · rw [s.key_setKey hk, if_pos rfl]

theorem keySetOp_of_no_key (h : ¬ (0 ≤ i ∧ i ≤ 15)) (b : Bool) : keySetOp i b s = (s, .keyInvalidIndex) := by
  rw [keySetOp, keyNumber_of_no_key h]

theorem keyQueryOp_of_key (h : 0 ≤ i ∧ i ≤ 15) : keyQueryOp i s = .bit (s.key i.toNat) := by
  rw [keyQueryOp, keyNumber_of_key h]

theorem keyQueryOp_of_no_key (h : ¬ (0 ≤ i ∧ i ≤ 15)) : keyQueryOp i s = .keyInvalidIndex := by
  rw [keyQueryOp, keyNumber_of_no_key h]

end

/-- Settles O52, by whether the integer is a key number. -/
theorem keypadPortSetsOneKey : Obligations.KeypadPortSetsOneKey := by
  refine fun s k => ⟨fun hge hle => ?_, fun hout => ?_⟩
  · have hin : 0 ≤ k ∧ k ≤ 15 := ⟨hge, hle⟩
    obtain ⟨t, ht, hpressed, hframe⟩ := keySetOp_sets_key_only s hin true
    obtain ⟨u, hu, hreleased, hframe'⟩ := keySetOp_sets_key_only s hin false
    exact ⟨⟨t, by rw [transact, ht], hpressed, hframe⟩, ⟨u, by rw [transact, hu], hreleased, hframe'⟩,
      by rw [transact, keyQueryOp_of_key s hin]⟩
  · have hno : ¬ (0 ≤ k ∧ k ≤ 15) := by omega
    exact ⟨by rw [transact, keySetOp_of_no_key s hno], by rw [transact, keySetOp_of_no_key s hno],
      by rw [transact, keyQueryOp_of_no_key s hno]⟩

end Sys2Proof.Machine
end

section
/-! PROOFS. The statements of 60_exceptions.md: the event of every instruction (R210), and that every error is precise
(R213). -/

namespace Sys2Proof.Machine

/-! ### The event of an outcome -/

/-- If the outcome is a next state, the event on its port is `e`. -/
def Reports (e : Event) (o : Outcome) : Prop := ∀ t, o = .next t → t.event = e

section
variable {e e' : Event} {o : Outcome}

theorem Reports.next (t : State) : Reports t.event (.next t) := by
  rintro _ ⟨⟩
  rfl

theorem Reports.raise (e : Event) (s : State) : Reports e (raise e s) := .next _

theorem Reports.complete (t : State) : Reports .evNone (complete t) := .next _

theorem Reports.fault (e : Event) (r : Fault) : Reports e (.fault r) := nofun

/-- An event given by cases, as `expectedEvent` gives it. -/
theorem Reports.ite {P : Prop} [Decidable P] (hpos : P → Reports e o) (hneg : ¬ P → Reports e' o) :
    Reports (if P then e else e') o := by
  split
  · exact hpos ‹_›
  · exact hneg ‹_›

end

/-! ### The instructions with a condition of their own (R214) -/

section
variable (s : State)

theorem exec_ret_reports : Reports (expectedEvent .ret s) (exec .ret s) := by
  refine .ite (fun h => ?_) fun h => ?_
  · rw [exec_ret_of_empty h]
    exact .raise _ s
  · rw [exec, execRet, if_neg h]
    split
    · exact .complete _
    · exact .fault _ _

theorem callWithFullStack_reports (nnn : Word) : Reports (.stackOverflow s.pc) (callWithFullStack nnn s) := by
  unfold callWithFullStack
  split
  · exact .raise _ s
  · exact .next _

theorem exec_call_reports (nnn : Word) : Reports (expectedEvent (.call nnn) s) (exec (.call nnn) s) := by
  refine .ite (fun h => ?_) fun h => ?_
  · rw [exec_call_of_full h]
    exact callWithFullStack_reports s nnn
  · rw [exec, execCall, if_neg h]
    split
    · exact .complete _
    · exact .fault _ _

theorem skipOnKey_reports (b : Bool) (x : RegIdx) :
    Reports (if s.cfg.keyIndexMode = .fault ∧ (s.readV x).toNat > 15 then .invalidIndex (s.readV x) else .evNone)
      (skipOnKey b x s) := by
  refine .ite (fun ⟨hm, hv⟩ => ?_) fun h => ?_
  · rw [skipOnKey_error hm hv]
    exact .raise _ s
  · have hok : s.cfg.keyIndexMode = .mask ∨ (s.readV x).toNat ≤ 15 := by
      cases hm : s.cfg.keyIndexMode with
      | mask => exact .inl rfl
      | fault => exact .inr (Nat.le_of_not_gt fun hv => h ⟨hm, hv⟩)
    rw [skipOnKey_ok hok]
    exact .complete _

theorem exec_ldK_reports (x : RegIdx) : Reports (expectedEvent (.ldK x) s) (exec (.ldK x) s) := by
  refine .ite (fun h => ?_) fun h => ?_
  · rw [exec_ldK_of_none (lowestHeldKey_none h)]
    exact .raise _ s
  · obtain ⟨-, hnone⟩ | ⟨k, hk, -⟩ := lowestHeldKey_cases s
    · exact absurd hnone h
    · rw [exec_ldK_of_some hk]
      exact .complete _

end

/-! ### The memory transfers (20_memory.md R54) -/

/-- A transfer fails only under FAULT, and then when it has a last address and that address is above 0xFFF. -/
theorem not_transferInRange_iff (cfg : Config) (v n : Nat) :
    ¬ TransferInRange cfg v n ↔ cfg.addrMode = .fault ∧ 0 < n ∧ v + n - 1 > 0xFFF := by
  cases hm : cfg.addrMode with
  | wrap => simp [TransferInRange, hm]
  | fault =>
    rw [transferInRange_fault_iff hm, eq_self, true_and]
    omega

theorem not_transferInRange_succ_iff (cfg : Config) (v n : Nat) :
    ¬ TransferInRange cfg v (n + 1) ↔ cfg.addrMode = .fault ∧ v + n > 0xFFF := by
  rw [not_transferInRange_iff]
  exact and_congr_right fun _ => by omega

section
variable {s : State} {P : Prop} [Decidable P]

/-- An instruction that completes when its transfer fits, and else raises, when `P` says that it does not fit. -/
theorem Reports.transfer {n : Nat} {o : Outcome} (hP : ¬ TransferInRange s.cfg s.i.toNat n ↔ P)
    (hin : TransferInRange s.cfg s.i.toNat n → ∃ t, o = Machine.complete t)
    (hout : ¬ TransferInRange s.cfg s.i.toNat n → o = Machine.raise (.invalidAddress (firstOutOfRange s.i.toNat)) s) :
    Reports (if P then .invalidAddress (firstOutOfRange s.i.toNat) else .evNone) o := by
  refine .ite (fun h => ?_) fun h => ?_
  · rw [hout (hP.mpr h)]
    exact .raise _ s
  · obtain ⟨t, ht⟩ := hin (not_not.mp (mt hP.mp h))
    rw [ht]
    exact .complete t

theorem storeAtIndex_reports {bs : List Byte} (hsmall : bs.length ≤ 4096)
    (hP : ¬ TransferInRange s.cfg s.i.toNat bs.length ↔ P) :
    Reports (if P then .invalidAddress (firstOutOfRange s.i.toNat) else .evNone) (storeAtIndex bs s) :=
  .transfer hP (fun h => let ⟨_, ht, _⟩ := storeAtIndex_in h hsmall; ⟨_, ht⟩) storeAtIndex_out

end

section
variable (s : State)

theorem exec_stRegs_reports (x : RegIdx) : Reports (expectedEvent (.stRegs x) s) (exec (.stRegs x) s) := by
  have hlen := s.regsUpTo_length x
  exact storeAtIndex_reports (by omega) (hlen ▸ not_transferInRange_succ_iff s.cfg s.i.toNat x.val)

theorem exec_ldRegs_reports (x : RegIdx) : Reports (expectedEvent (.ldRegs x) s) (exec (.ldRegs x) s) :=
  .transfer (not_transferInRange_succ_iff s.cfg s.i.toNat x.val)
    (fun h => let ⟨_, _, _, ht⟩ := execLdRegs_in h; ⟨_, ht⟩) execLdRegs_out

theorem exec_drw_reports (x y : RegIdx) (n : Nat) : Reports (expectedEvent (.drw x y n) s) (exec (.drw x y n) s) :=
  .transfer (not_transferInRange_iff s.cfg s.i.toNat n)
    (fun h => let ⟨_, _, ht⟩ := execDrw_in h x y; ⟨_, ht⟩) (execDrw_out · x y)

end

/-! ### The statements -/

/-- Settles O55, by the instruction: those without a row in R210's table complete, and each of the others reports its own
condition. -/
theorem eventOfEveryInstruction : Obligations.EventOfEveryInstruction := by
  intro i s
  change Reports (expectedEvent i s) (exec i s)
  cases i with
  | ret => exact exec_ret_reports s
  | call nnn => exact exec_call_reports s nnn
  | drw x y n => exact exec_drw_reports s x y n
  | skp x => exact skipOnKey_reports s true x
  | sknp x => exact skipOnKey_reports s false x
  | ldK x => exact exec_ldK_reports s x
  | ldB x => exact storeAtIndex_reports (by simp [bcdDigits]) (not_transferInRange_succ_iff s.cfg s.i.toNat 2)
  | stRegs x => exact exec_stRegs_reports s x
  | ldRegs x => exact exec_ldRegs_reports s x
  | cls | jp | jpV0 | seImm | sneImm | seReg | sneReg => exact .complete _
  | ldImm | addImm | ldReg | or | and | xor | addReg | sub | shr | subn | shl | rnd => exact .complete _
  | ldIdx | addIdx | ldF | ldVDt | ldDtV | ldStV => exact .complete _

theorem running_of_event {s t : State} (ht : step s = .next t) (he : t.event ≠ .evNone) : s.run = .running := by
  by_contra hrun
  rw [step_not_running hrun] at ht
  exact he (Reports.complete s t ht)

/-- Only a full stack makes a CALL report EV_STACK_OVERFLOW (R210). -/
theorem full_of_call_stackOverflow {nnn pc : Word} {s t : State} (ht : exec (.call nnn) s = .next t)
    (he : t.event = .stackOverflow pc) : s.sp.toNat = 16 := by
  by_contra hsp
  have hnone : t.event = .evNone := (eventOfEveryInstruction _ s t ht).trans (if_neg hsp)
  rw [hnone] at he
  cases he

/-- Settles O56: a tick with an event raised on the state after its decrement, or it is the one call that commits. -/
theorem raisingTickChangesNothing : Obligations.RaisingTickChangesNothing := by
  intro s t ht he
  obtain ⟨e, rfl⟩ | ⟨i, hi, hexec⟩ := step_next_cases (running_of_event ht he) ht
  · exact .inl rfl
  · obtain ⟨hnone, -⟩ | ⟨e, -, rfl⟩ | ⟨nnn, rfl, hm, rfl⟩ := exec_next_cases hexec
    · exact absurd hnone he
    · exact .inl rfl
    · have hsp := full_of_call_stackOverflow hexec rfl
      rw [tickTimers_eq] at hm hsp
      refine .inr ⟨nnn, hi, hm, hsp, ?_⟩
      rw [State.jump, State.setEvent, tickTimers_eq]

end Sys2Proof.Machine
end

section
/-! PROOFS. The statements of 70_reset_and_hazards.md: RESET and LOAD, the run states, and the machine stopped at p. -/

namespace Sys2Proof.Machine

/-! ### A self-repeating form leaves the state it runs in (R255) -/

section
variable {s t u : State} {p : Word}

theorem State.jump_eq_self {v : Nat} (h : normPc s.cfg v = s.pc) : s.jump v = s := by
  rw [State.jump, h]

/-- A self-repeating instruction raises, or it is the jump to its own address; the event is all that it changes. -/
theorem exec_of_selfRepeating {i : Instr} (h : SelfRepeating s (.instr i)) : ∃ e, exec i s = .next (s.setEvent e) := by
  cases i with
  | ret => exact ⟨_, exec_ret_of_empty h⟩
  | call nnn =>
    obtain ⟨hsp, hm⟩ := h
    exact ⟨_, (exec_call_of_full hsp nnn).trans (callWithFullStack_reject hm nnn)⟩
  | ldK x => exact ⟨_, exec_ldK_of_none (lowestHeldKey_none h) x⟩
  | ldB x => exact ⟨_, storeAtIndex_out h⟩
  | stRegs x => exact ⟨_, storeAtIndex_out ((s.regsUpTo_length x).symm ▸ h)⟩
  | ldRegs x => exact ⟨_, execLdRegs_out h⟩
  | drw x y n => exact ⟨_, execDrw_out h x y⟩
  | skp x | sknp x =>
    obtain ⟨hm, hv⟩ := h
    exact ⟨_, skipOnKey_error hm hv _⟩
  | jp nnn =>
    obtain ⟨rfl, hpc⟩ := h
    exact ⟨_, congrArg complete (State.jump_eq_self hpc)⟩
  | cls | jpV0 | seImm | sneImm | seReg | sneReg => exact h.elim
  | ldImm | addImm | ldReg | or | and | xor | addReg | sub | shr | subn | shl | rnd => exact h.elim
  | ldIdx | addIdx | ldF | ldVDt | ldDtV | ldStV => exact h.elim

/-! ### The tick of a stopped machine (R263)

`StoppedAt` reads neither the timers nor the event port: an update of these keeps it by definition. -/

theorem StoppedAt.running (h : StoppedAt p s) : s.run = .running := by
  obtain ⟨hrun, -, -⟩ := h
  exact hrun

theorem StoppedAt.selfRepeating (h : StoppedAt p s) {op : Word} (hf : fetch s = .ok op) : SelfRepeating s (decode op) := by
  obtain ⟨-, -, hrepeats⟩ := h
  rwa [hf] at hrepeats

theorem StoppedAt.setEvent (h : StoppedAt p s) (e : Event) : StoppedAt p (s.setEvent e) := h

theorem StoppedAt.tickTimers (h : StoppedAt p s) : StoppedAt p (tickTimers s) := by
  rw [tickTimers_eq]
  exact h

theorem StoppedAt.step (h : StoppedAt p s) : ∃ e, step s = .next ((Machine.tickTimers s).setEvent e) := by
  obtain ⟨e, -, hs⟩ | ⟨-, w, -, -, hs⟩ | ⟨op, i, hf, hd, hs⟩ := step_cases h.running
  · exact ⟨e, hs⟩
  · exact ⟨_, hs⟩
  · have hrepeats := h.tickTimers.selfRepeating ((fetch_tickTimers s).trans hf)
    rw [hd] at hrepeats
    rw [hs]
    exact exec_of_selfRepeating hrepeats

/-! ### Any number of ticks -/

theorem SamePart.trans {q : Part} (hst : SamePart s t q) (htu : SamePart t u q) : SamePart s u q := by
  cases q <;> exact Eq.trans htu hst

theorem UnchangedExcept.trans {C : Part → Prop} (hst : UnchangedExcept C s t) (htu : UnchangedExcept C t u) :
    UnchangedExcept C s u :=
  fun q hq => (hst q hq).trans (htu q hq)

theorem UnchangedExcept.tickTimers {C : Part → Prop} (h : UnchangedExcept C s t) (hdt : C .dt) (hst : C .st) :
    UnchangedExcept C s (tickTimers t) := by
  rw [tickTimers_eq]
  exact (h.setDt hdt (Machine.tickTimers t).dt).setSt hst (Machine.tickTimers t).st

/-- From `s` to `t` nothing changed but the event port and the timers, which TIMER_MODE lets n ticks lower or not. -/
structure OnlyTimersRan (n : Nat) (s t : State) : Prop where
  frame : UnchangedExcept (fun q => q = .dt ∨ q = .st ∨ q = .event) s t
  coupled : s.cfg.timerMode = .coupled → t.dt.toNat = s.dt.toNat - n ∧ t.st.toNat = s.st.toNat - n
  independent : s.cfg.timerMode = .independent → t.dt = s.dt ∧ t.st = s.st

theorem OnlyTimersRan.cfg_eq {n : Nat} (h : OnlyTimersRan n s t) : t.cfg = s.cfg := h.frame .cfg (by simp)

theorem OnlyTimersRan.refl (s : State) : OnlyTimersRan 0 s s := ⟨.refl _ s, fun _ => ⟨rfl, rfl⟩, fun _ => ⟨rfl, rfl⟩⟩

theorem OnlyTimersRan.tick (s : State) (e : Event) : OnlyTimersRan 1 s ((tickTimers s).setEvent e) := by
  refine ⟨?_, fun hm => ?_, fun hm => ?_⟩
  · exact ((UnchangedExcept.refl _ s).tickTimers (by simp) (by simp)).setEvent (by simp) e
  · rw [tickTimers_coupled hm]
    exact ⟨countDown_toNat s.dt, countDown_toNat s.st⟩
  · rw [tickTimers_independent hm]
    exact ⟨rfl, rfl⟩

theorem OnlyTimersRan.trans {m n : Nat} (hfirst : OnlyTimersRan m s t) (hrest : OnlyTimersRan n t u) :
    OnlyTimersRan (m + n) s u := by
  refine ⟨hfirst.frame.trans hrest.frame, fun hm => ?_, fun hm => ?_⟩
  · obtain ⟨hdt, hst⟩ := hfirst.coupled hm
    obtain ⟨hdt', hst'⟩ := hrest.coupled (hfirst.cfg_eq ▸ hm)
    omega
  · obtain ⟨hdt, hst⟩ := hfirst.independent hm
    obtain ⟨hdt', hst'⟩ := hrest.independent (hfirst.cfg_eq ▸ hm)
    exact ⟨hdt'.trans hdt, hst'.trans hst⟩

theorem run_succ_of_step {M : Host.Core} {s t : M.State} (h : M.step s = .next t) (n : Nat) :
    M.run (n + 1) s = M.run n t := by
  rw [Host.Core.run, h]

theorem StoppedAt.run (h : StoppedAt p s) (n : Nat) :
    ∃ t : State, Host.Core.run Sys2Proof.core n s = .next t ∧ StoppedAt p t ∧ OnlyTimersRan n s t := by
  induction n generalizing s with
  | zero => exact ⟨s, rfl, h, .refl s⟩
  | succ n ih =>
    obtain ⟨e, hstep⟩ := h.step
    obtain ⟨t, hrun, hstopped, hran⟩ := ih (h.tickTimers.setEvent e)
    exact ⟨t, (run_succ_of_step hstep n).trans hrun, hstopped, Nat.add_comm n 1 ▸ (OnlyTimersRan.tick s e).trans hran⟩

end

/-- Settles O13, by induction on the number of ticks: each leaves the machine stopped at p. -/
theorem stoppedMachineStaysStopped : Obligations.StoppedMachineStaysStopped := by
  intro n p s h
  obtain ⟨t, hrun, hstopped, hframe, hcoupled, hindependent⟩ := h.run n
  exact ⟨t, hrun, hstopped, hframe, hcoupled, hindependent⟩

/-! ### RESET and LOAD (R241, R243) -/

theorem State.init_readByte_of_lt (cfg : Config) {a : Nat} (ha : a < 80) : (State.init cfg).readByte a = cfg.font[a] := by
  simp [State.init, State.readByte, Memory.read, Memory.lookup, Memory.unlisted, ha]

/-- Settles O16: no byte is listed after RESET, so each reads as its reset content. -/
theorem resetLoadsTheFont : Obligations.ResetLoadsTheFont :=
  fun s => ⟨resetOp s, rfl, fun _ hk => ⟨State.init_readByte_of_lt s.cfg hk, State.init_readByte_of_lt s.cfg hk⟩⟩

section
variable {C : Part → Prop} {s t : State} {rom : List Byte}

theorem UnchangedExcept.setRun (h : UnchangedExcept C s t) (hr : C .run) (r : RunState) :
    UnchangedExcept C s { t with run := r } := by
  intro p hp
  cases p with
  | run => exact absurd hr hp
  | _ => exact h _ hp

theorem UnchangedExcept.copyRom {a : Nat} (hfits : a + rom.length ≤ 4096) (hC : ∀ k < rom.length, C (.byte (a + k))) :
    UnchangedExcept C s (copyRom s a rom) := by
  rw [copyRom_eq]
  refine .setMem fun c hc => ?_
  have hout : ¬ (a ≤ c ∧ c < a + rom.length) := by
    rintro ⟨hle, hlt⟩
    have hbyte := hC (c - a) (by omega)
    rw [Nat.add_sub_cancel' hle] at hbyte
    exact hc hbyte
  rw [← copyRom_eq, readByte_copyRom s a rom hfits, dif_neg hout]

theorem readByte_copyRom_of_lt {a k : Nat} (hfits : a + rom.length ≤ 4096) (hk : k < rom.length) :
    (copyRom s a rom).readByte (a + k) = rom[k] := by
  rw [readByte_copyRom s a rom hfits, dif_pos ⟨by omega, by omega⟩]
  simp

theorem loadOp_of_too_long (h : rom.length > 3584) (s : State) : loadOp rom s = (s, .loadOutOfSpace) := if_pos h

theorem loadOp_of_fits (h : rom.length ≤ 3584) (s : State) : loadOp rom s = (loadProgram s rom, .loadOk) :=
  if_neg (Nat.not_lt_of_le h)

end

/-- Settles O18: a ROM that fits is copied over the RESET state from 0x200 on, below 4096. -/
theorem loadCopiesTheRomOrChangesNothing : Obligations.LoadCopiesTheRomOrChangesNothing := by
  refine fun rom s => ⟨fun hlong => ?_, fun hle => ⟨resetOp s, loadProgram s rom, rfl, ?_, rfl, fun k hk => ?_, ?_⟩⟩
  · rw [transact, loadOp_of_too_long hlong]
  · rw [transact, loadOp_of_fits hle]
  · exact readByte_copyRom_of_lt (by omega) hk
  · exact (UnchangedExcept.copyRom (by omega) fun k hk => .inr ⟨k, hk, rfl⟩).setRun (.inl rfl) .running

/-! ### The run states (R246, R247, R249) -/

section
variable {s t : State}

theorem pauseOp_of_running (h : s.run = .running) : pauseOp s = { s with run := .paused } := by
  rw [pauseOp, h]

theorem pauseOp_of_not_running (h : s.run ≠ .running) : pauseOp s = s := by
  unfold pauseOp
  split
  · exact absurd ‹_› h
  all_goals rfl

theorem resumeOp_of_paused (h : s.run = .paused) : resumeOp s = { s with run := .running } := by
  rw [resumeOp, h]

theorem resumeOp_of_not_paused (h : s.run ≠ .paused) : resumeOp s = s := by
  unfold resumeOp
  split
  · exact absurd ‹_› h
  all_goals rfl

theorem tickOp_of_not_running (h : s.run ≠ .running) : tickOp s = .next (s.setEvent .evNone, .event .evNone) := by
  rw [tickOp, step_not_running h, complete]
  rfl

/-- No instruction may write RUN, and a tick outside RUNNING writes the event port only. -/
theorem step_run (ht : step s = .next t) : t.run = s.run := by
  by_cases hrun : s.run = .running
  · have hsame : t.run = (tickTimers s).run :=
      step_samePart (p := .run) hrun ht (by simp) fun i _ => not_mayWrite_run i _
    exact hsame.trans (tickTimers_run s)
  · rw [step_not_running hrun] at ht
    cases ht
    rfl

end

/-- Settles O19, operation by operation, each by the run state it acts in. -/
theorem runStateMachine : Obligations.RunStateMachine := by
  refine fun s => ⟨⟨resetOp s, rfl, rfl⟩, fun h => ?_, fun h => ?_, fun h => ?_, fun h => ?_, fun ms => rfl,
    tickOp_of_not_running, fun t => step_run, rfl⟩
  · rw [transact, pauseOp_of_running h]
  · rw [transact, pauseOp_of_not_running h]
  · rw [transact, resumeOp_of_paused h]
  · rw [transact, resumeOp_of_not_paused h]

end Sys2Proof.Machine
end
